-- ==== Sys2Proof/Word.lean ====
section
/-! DEFINITION. The words the machine computes with (00_scope.md R8, R9, R15): bit 0 is the least significant bit, every
value is unsigned, and the only widths are 4, 8, 12 and 16 bits. -/

namespace Sys2Proof

/-- A 4-bit field: a register index `x` or `y`, or the height `n` (30_encoding.md R92 to R94). -/
abbrev Nibble := BitVec 4

/-- An unsigned byte: a register, a timer or a memory byte (00_scope.md R15). -/
abbrev Byte := BitVec 8

/-- A 12-bit address immediate `nnn` (30_encoding.md R96). -/
abbrev Addr := BitVec 12

/-- An instruction word, or the 16-bit storage of PC, SP, I and IR (00_scope.md R6). -/
abbrev Word := BitVec 16

/-- The contents of the input latch: bit `k` is KEY[k], set when key `k` is pressed (10_state.md R34). -/
abbrev Keys := BitVec 16

/-- The index of VF, the only flag (10_state.md R21). -/
abbrev vf : Nibble := 0xF#4

end Sys2Proof
end

