-- ==== Sys2Proof/Syntax.lean ====
section
/-! DEFINITION. The instructions: one constructor per row of spec/opcode_table.json, with exactly the fields the row gives
(30_encoding.md R98, R107, R116). The ignored bits of R98 (11:8 of clear-screen and return, 3:0 of families 0x5 and 0x9)
are no operands and are not part of the syntax. -/

namespace Sys2Proof

/-- The 35 operations, in the order of the spec's tag numbers (30_encoding.md R107). -/
inductive Instr where
  | legacyCall (nnn : Addr)
  | clearScreen
  | ret
  | jump (nnn : Addr)
  | call (nnn : Addr)
  | skipIfEqImm (x : Nibble) (nn : Byte)
  | skipIfNeImm (x : Nibble) (nn : Byte)
  | skipIfEqReg (x y : Nibble)
  | moveImm (x : Nibble) (nn : Byte)
  | addImm (x : Nibble) (nn : Byte)
  | moveReg (x y : Nibble)
  | orReg (x y : Nibble)
  | andReg (x y : Nibble)
  | xorReg (x y : Nibble)
  | addReg (x y : Nibble)
  | subReg (x y : Nibble)
  | shiftRight (x y : Nibble)
  | subRegRev (x y : Nibble)
  | shiftLeft (x y : Nibble)
  | skipIfNeReg (x y : Nibble)
  | setIndex (nnn : Addr)
  | jumpOffset (nnn : Addr)
  | randMask (x : Nibble) (nn : Byte)
  | drawSprite (x y n : Nibble)
  | skipIfKey (x : Nibble)
  | skipIfNotKey (x : Nibble)
  | readDelay (x : Nibble)
  | waitKey (x : Nibble)
  | setDelay (x : Nibble)
  | setSound (x : Nibble)
  | indexAdd (x : Nibble)
  | indexSetSprite (x : Nibble)
  | storeBcd (x : Nibble)
  | registerDump (x : Nibble)
  | registerLoad (x : Nibble)
  deriving DecidableEq, Repr

/-- The spec's own tag number of an operation (30_encoding.md R107). No program can observe it. -/
def Instr.tag : Instr → Nat
  | .legacyCall _ => 0
  | .clearScreen => 1
  | .ret => 2
  | .jump _ => 3
  | .call _ => 4
  | .skipIfEqImm _ _ => 5
  | .skipIfNeImm _ _ => 6
  | .skipIfEqReg _ _ => 7
  | .moveImm _ _ => 8
  | .addImm _ _ => 9
  | .moveReg _ _ => 10
  | .orReg _ _ => 11
  | .andReg _ _ => 12
  | .xorReg _ _ => 13
  | .addReg _ _ => 14
  | .subReg _ _ => 15
  | .shiftRight _ _ => 16
  | .subRegRev _ _ => 17
  | .shiftLeft _ _ => 18
  | .skipIfNeReg _ _ => 19
  | .setIndex _ => 20
  | .jumpOffset _ => 21
  | .randMask _ _ => 22
  | .drawSprite _ _ _ => 23
  | .skipIfKey _ => 24
  | .skipIfNotKey _ => 25
  | .readDelay _ => 26
  | .waitKey _ => 27
  | .setDelay _ => 28
  | .setSound _ => 29
  | .indexAdd _ => 30
  | .indexSetSprite _ => 31
  | .storeBcd _ => 32
  | .registerDump _ => 33
  | .registerLoad _ => 34

/-- The `mask` of an operation's row of spec/opcode_table.json: the bits the decoder examines. -/
def Instr.tableMask : Instr → Word
  | .legacyCall _ | .jump _ | .call _ | .setIndex _ | .jumpOffset _ => 0xF000
  | .skipIfEqImm _ _ | .skipIfNeImm _ _ | .moveImm _ _ | .addImm _ _ | .randMask _ _ => 0xF000
  | .skipIfEqReg _ _ | .skipIfNeReg _ _ | .drawSprite _ _ _ => 0xF000
  | .moveReg _ _ | .orReg _ _ | .andReg _ _ | .xorReg _ _ | .addReg _ _ | .subReg _ _ => 0xF00F
  | .shiftRight _ _ | .subRegRev _ _ | .shiftLeft _ _ => 0xF00F
  | .clearScreen | .ret | .skipIfKey _ | .skipIfNotKey _ | .readDelay _ | .waitKey _ => 0xF0FF
  | .setDelay _ | .setSound _ | .indexAdd _ | .indexSetSprite _ | .storeBcd _ => 0xF0FF
  | .registerDump _ | .registerLoad _ => 0xF0FF

/-- The `match` of an operation's row of spec/opcode_table.json: what the examined bits are. -/
def Instr.tableMatch : Instr → Word
  | .legacyCall _ => 0x0000
  | .clearScreen => 0x00E0
  | .ret => 0x00EE
  | .jump _ => 0x1000
  | .call _ => 0x2000
  | .skipIfEqImm _ _ => 0x3000
  | .skipIfNeImm _ _ => 0x4000
  | .skipIfEqReg _ _ => 0x5000
  | .moveImm _ _ => 0x6000
  | .addImm _ _ => 0x7000
  | .moveReg _ _ => 0x8000
  | .orReg _ _ => 0x8001
  | .andReg _ _ => 0x8002
  | .xorReg _ _ => 0x8003
  | .addReg _ _ => 0x8004
  | .subReg _ _ => 0x8005
  | .shiftRight _ _ => 0x8006
  | .subRegRev _ _ => 0x8007
  | .shiftLeft _ _ => 0x800E
  | .skipIfNeReg _ _ => 0x9000
  | .setIndex _ => 0xA000
  | .jumpOffset _ => 0xB000
  | .randMask _ _ => 0xC000
  | .drawSprite _ _ _ => 0xD000
  | .skipIfKey _ => 0xE09E
  | .skipIfNotKey _ => 0xE0A1
  | .readDelay _ => 0xF007
  | .waitKey _ => 0xF00A
  | .setDelay _ => 0xF015
  | .setSound _ => 0xF018
  | .indexAdd _ => 0xF01E
  | .indexSetSprite _ => 0xF029
  | .storeBcd _ => 0xF033
  | .registerDump _ => 0xF055
  | .registerLoad _ => 0xF065

/-- The bits of a word that carry an operation: all but the ignored bits of 30_encoding.md R98. -/
def Instr.usedBits : Instr → Word
  | .clearScreen | .ret => 0xF0FF
  | .skipIfEqReg _ _ | .skipIfNeReg _ _ => 0xFFF0
  | .legacyCall _ | .jump _ | .call _ | .setIndex _ | .jumpOffset _ => 0xFFFF
  | .skipIfEqImm _ _ | .skipIfNeImm _ _ | .moveImm _ _ | .addImm _ _ | .randMask _ _ => 0xFFFF
  | .moveReg _ _ | .orReg _ _ | .andReg _ _ | .xorReg _ _ | .addReg _ _ | .subReg _ _ => 0xFFFF
  | .shiftRight _ _ | .subRegRev _ _ | .shiftLeft _ _ | .drawSprite _ _ _ => 0xFFFF
  | .skipIfKey _ | .skipIfNotKey _ | .readDelay _ | .waitKey _ => 0xFFFF
  | .setDelay _ | .setSound _ | .indexAdd _ | .indexSetSprite _ | .storeBcd _ => 0xFFFF
  | .registerDump _ | .registerLoad _ => 0xFFFF

end Sys2Proof
end

