-- ==== Sys2Proof/WellFormed.lean ====
section
/-! DEFINITION. Which instruction terms some word encodes. The field widths of 30_encoding.md R97 are in the types, so the
one check left is the exclusion in the legacy-call row: its low byte is neither 0xE0 nor 0xEE (30_encoding.md R101). -/

namespace Sys2Proof

/-- Whether an instruction is the decoding of some word. -/
def Instr.wellFormed : Instr → Bool
  | .legacyCall nnn => nnn.extractLsb' 0 8 != 0xE0#8 && nnn.extractLsb' 0 8 != 0xEE#8
  | .clearScreen | .ret | .jump _ | .call _ | .setIndex _ | .jumpOffset _ => true
  | .skipIfEqImm _ _ | .skipIfNeImm _ _ | .moveImm _ _ | .addImm _ _ | .randMask _ _ => true
  | .skipIfEqReg _ _ | .skipIfNeReg _ _ | .drawSprite _ _ _ => true
  | .moveReg _ _ | .orReg _ _ | .andReg _ _ | .xorReg _ _ | .addReg _ _ | .subReg _ _ => true
  | .shiftRight _ _ | .subRegRev _ _ | .shiftLeft _ _ => true
  | .skipIfKey _ | .skipIfNotKey _ | .readDelay _ | .waitKey _ | .setDelay _ | .setSound _ => true
  | .indexAdd _ | .indexSetSprite _ | .storeBcd _ | .registerDump _ | .registerLoad _ => true

end Sys2Proof
end

