-- ==== Sys2Proof/Decode.lean ====
section
/-! DEFINITION. The instruction decoder (30_encoding.md R90 to R106) and, after it, an encoder written from the formats of
R98 and the opcode map of R116. UNVERIFIED: the opcode values outside family 0x0 and the positions of x, y, n and nn are
the spec's, which says itself that its source does not give them (93_implementation_defined.md GK1, GK2); unsafe,
notes/assumptions/9.md. -/

namespace Sys2Proof

/-- Why the decoder gives no operation. -/
inductive Reject where
  /-- The sentinel UNRECOGNIZED (30_encoding.md R106): the engine halts with DecodeFailure. -/
  | unrecognized (w : Word)
  /-- Fewer than two bytes were given. The engine never sees this: a fetch always reads two bytes. -/
  | truncated
  deriving DecidableEq, Repr

/-- The family, bits 15:12 (30_encoding.md R91). -/
def family (w : Word) : Nibble := w.extractLsb' 12 4

/-- The register field x, bits 11:8 (30_encoding.md R92). -/
def fieldX (w : Word) : Nibble := w.extractLsb' 8 4

/-- The register field y, bits 7:4 (30_encoding.md R93). -/
def fieldY (w : Word) : Nibble := w.extractLsb' 4 4

/-- The nibble immediate n, bits 3:0, also the sub-selector of family 0x8 (30_encoding.md R94, R102). -/
def fieldN (w : Word) : Nibble := w.extractLsb' 0 4

/-- The byte immediate nn, bits 7:0, also the sub-selector of families 0x0, 0xE and 0xF (30_encoding.md R95). -/
def fieldNN (w : Word) : Byte := w.extractLsb' 0 8

/-- The address immediate nnn, bits 11:0 (30_encoding.md R96). -/
def fieldNNN (w : Word) : Addr := w.extractLsb' 0 12

/-- Family 0x0 dispatches on the whole low byte (30_encoding.md R101). -/
def decode0 (w : Word) : Except Reject Instr :=
  if fieldNN w = 0xE0#8 then .ok .clearScreen
  else if fieldNN w = 0xEE#8 then .ok .ret
  else .ok (.legacyCall (fieldNNN w))

/-- Family 0x8 dispatches on the low nibble (30_encoding.md R102). -/
def decode8 (w : Word) : Except Reject Instr :=
  match fieldN w with
  | 0x0#4 => .ok (.moveReg (fieldX w) (fieldY w))
  | 0x1#4 => .ok (.orReg (fieldX w) (fieldY w))
  | 0x2#4 => .ok (.andReg (fieldX w) (fieldY w))
  | 0x3#4 => .ok (.xorReg (fieldX w) (fieldY w))
  | 0x4#4 => .ok (.addReg (fieldX w) (fieldY w))
  | 0x5#4 => .ok (.subReg (fieldX w) (fieldY w))
  | 0x6#4 => .ok (.shiftRight (fieldX w) (fieldY w))
  | 0x7#4 => .ok (.subRegRev (fieldX w) (fieldY w))
  | 0xE#4 => .ok (.shiftLeft (fieldX w) (fieldY w))
  | _ => .error (.unrecognized w)

/-- Family 0xE dispatches on the whole low byte (30_encoding.md R103). -/
def decodeE (w : Word) : Except Reject Instr :=
  match fieldNN w with
  | 0x9E#8 => .ok (.skipIfKey (fieldX w))
  | 0xA1#8 => .ok (.skipIfNotKey (fieldX w))
  | _ => .error (.unrecognized w)

/-- Family 0xF dispatches on the whole low byte (30_encoding.md R104). -/
def decodeF (w : Word) : Except Reject Instr :=
  match fieldNN w with
  | 0x07#8 => .ok (.readDelay (fieldX w))
  | 0x0A#8 => .ok (.waitKey (fieldX w))
  | 0x15#8 => .ok (.setDelay (fieldX w))
  | 0x18#8 => .ok (.setSound (fieldX w))
  | 0x1E#8 => .ok (.indexAdd (fieldX w))
  | 0x29#8 => .ok (.indexSetSprite (fieldX w))
  | 0x33#8 => .ok (.storeBcd (fieldX w))
  | 0x55#8 => .ok (.registerDump (fieldX w))
  | 0x65#8 => .ok (.registerLoad (fieldX w))
  | _ => .error (.unrecognized w)

/-- The decoder: total, pure, first on the family and a second time only in families 0x0, 0x8, 0xE and 0xF
(30_encoding.md R99, R100, R105). The last arm is family 0xF, the only one the arms above leave. -/
def decode (w : Word) : Except Reject Instr :=
  match family w with
  | 0x0#4 => decode0 w
  | 0x1#4 => .ok (.jump (fieldNNN w))
  | 0x2#4 => .ok (.call (fieldNNN w))
  | 0x3#4 => .ok (.skipIfEqImm (fieldX w) (fieldNN w))
  | 0x4#4 => .ok (.skipIfNeImm (fieldX w) (fieldNN w))
  | 0x5#4 => .ok (.skipIfEqReg (fieldX w) (fieldY w))
  | 0x6#4 => .ok (.moveImm (fieldX w) (fieldNN w))
  | 0x7#4 => .ok (.addImm (fieldX w) (fieldNN w))
  | 0x8#4 => decode8 w
  | 0x9#4 => .ok (.skipIfNeReg (fieldX w) (fieldY w))
  | 0xA#4 => .ok (.setIndex (fieldNNN w))
  | 0xB#4 => .ok (.jumpOffset (fieldNNN w))
  | 0xC#4 => .ok (.randMask (fieldX w) (fieldNN w))
  | 0xD#4 => .ok (.drawSprite (fieldX w) (fieldY w) (fieldN w))
  | 0xE#4 => decodeE w
  | _ => decodeF w

/-- The word of two fetched bytes, the first in bits 15:8 (30_encoding.md R90). -/
def wordOfBytes (hi lo : Byte) : Word := hi ++ lo

/-- The byte a word has at its lower address (20_memory.md R65). -/
def hiByte (w : Word) : Byte := w.extractLsb' 8 8

/-- The byte a word has at its higher address (20_memory.md R65). -/
def loByte (w : Word) : Byte := w.extractLsb' 0 8

/-- The decoder on any bytes: the instruction the first two hold and the bytes after it. -/
def decodeBytes : List Byte → Except Reject (Instr × List Byte)
  | hi :: lo :: rest => (decode (wordOfBytes hi lo)).map fun i => (i, rest)
  | [_] => .error .truncated
  | [] => .error .truncated

/-- The tag number the decoder gives, 35 standing for UNRECOGNIZED (30_encoding.md R107). -/
def decodeTag (w : Word) : Nat :=
  match decode w with
  | .ok i => i.tag
  | .error _ => 35

/-- The bytes of a row of spec/opcode_table.json as memory holds them, from its bits numbered as the table numbers
them; bits at or above `nbits` are zero. -/
def tableBytes (nbits w : Nat) : List Byte :=
  let word : Word := BitVec.ofNat 16 (w % 2 ^ nbits)
  [hiByte word, loByte word]

/-- What the decoder reads from an instruction whose bits are `w`, numbered as spec/opcode_table.json numbers them. -/
def decodeTableWord (nbits w : Nat) : Option Instr :=
  match decodeBytes (tableBytes nbits w) with
  | .ok (i, _) => some i
  | .error _ => none

/-- Format `Fnnn` (30_encoding.md R98). -/
def formNNN (f : Nibble) (nnn : Addr) : Word := f ++ nnn

/-- Format `Fxnn`, also `Fxss` with the sub-selector as the low byte (30_encoding.md R98). -/
def formXNN (f x : Nibble) (nn : Byte) : Word := f ++ x ++ nn

/-- Format `Fxyn`, also `8xys` with the sub-selector as the low nibble, and `Fxy-` (30_encoding.md R98). -/
def formXYN (f x y n : Nibble) : Word := f ++ x ++ y ++ n

/-- The word of a well-formed instruction; ignored bits are written 0 (30_encoding.md R98, R116). -/
def encode : Instr → Word
  | .legacyCall nnn => formNNN 0x0 nnn
  | .clearScreen => 0x00E0
  | .ret => 0x00EE
  | .jump nnn => formNNN 0x1 nnn
  | .call nnn => formNNN 0x2 nnn
  | .skipIfEqImm x nn => formXNN 0x3 x nn
  | .skipIfNeImm x nn => formXNN 0x4 x nn
  | .skipIfEqReg x y => formXYN 0x5 x y 0x0
  | .moveImm x nn => formXNN 0x6 x nn
  | .addImm x nn => formXNN 0x7 x nn
  | .moveReg x y => formXYN 0x8 x y 0x0
  | .orReg x y => formXYN 0x8 x y 0x1
  | .andReg x y => formXYN 0x8 x y 0x2
  | .xorReg x y => formXYN 0x8 x y 0x3
  | .addReg x y => formXYN 0x8 x y 0x4
  | .subReg x y => formXYN 0x8 x y 0x5
  | .shiftRight x y => formXYN 0x8 x y 0x6
  | .subRegRev x y => formXYN 0x8 x y 0x7
  | .shiftLeft x y => formXYN 0x8 x y 0xE
  | .skipIfNeReg x y => formXYN 0x9 x y 0x0
  | .setIndex nnn => formNNN 0xA nnn
  | .jumpOffset nnn => formNNN 0xB nnn
  | .randMask x nn => formXNN 0xC x nn
  | .drawSprite x y n => formXYN 0xD x y n
  | .skipIfKey x => formXNN 0xE x 0x9E
  | .skipIfNotKey x => formXNN 0xE x 0xA1
  | .readDelay x => formXNN 0xF x 0x07
  | .waitKey x => formXNN 0xF x 0x0A
  | .setDelay x => formXNN 0xF x 0x15
  | .setSound x => formXNN 0xF x 0x18
  | .indexAdd x => formXNN 0xF x 0x1E
  | .indexSetSprite x => formXNN 0xF x 0x29
  | .storeBcd x => formXNN 0xF x 0x33
  | .registerDump x => formXNN 0xF x 0x55
  | .registerLoad x => formXNN 0xF x 0x65

end Sys2Proof
end

