-- ==== Sys2Proof/Config.lean ====
section
/-! DEFINITION. What the implementation or the environment fixes and the spec leaves open. Every `opaque` constant has no
body, so a statement about it holds whatever it is. -/

namespace Sys2Proof

/-- Bytes of memory (00_scope.md R6, 20_memory.md R60). -/
abbrev Config.memSize : Nat := 0x1000

/-- PROGRAM_ORIGIN, fixed by the spec (00_scope.md R6; 92_eei_decisions.md D31). -/
abbrev Config.programOrigin : Nat := 0x200

/-- The largest ROM, in bytes (70_reset_and_hazards.md R261). -/
abbrev Config.maxRomBytes : Nat := 0xE00

/-- STACK_BASE of the machine `State.reset` builds. DESIGN CHOICE: the spec leaves it OPEN (92_eei_decisions.md D4); this
is the first admissible parameter set of 95_test_vectors.md. Unsafe only for a claim about `State.reset` itself, since the
machine reads the parameter from its state: notes/assumptions/1.md. -/
abbrev Config.stackBase : Word := 0x1E0

/-- STACK_LIMIT of the machine `State.reset` builds. DESIGN CHOICE, unsafe in the same way: notes/assumptions/1.md. -/
abbrev Config.stackLimit : Word := 0x200

/-- FONT: any 80 bytes (00_scope.md R7; 92_eei_decisions.md D17). A free value; safe: notes/assumptions/2.md. -/
opaque Config.font : Vector Byte 80

/-- Whether the host presents a timer tick to step `n` (60_exceptions.md R240; D15). A free value; safe:
notes/assumptions/3.md. -/
opaque Config.tick : Nat → Bool

/-- The random byte the host presents to step `n` (41_alu.md R161; D16). A free value; safe: notes/assumptions/4.md. -/
opaque Config.rand : Nat → Byte

/-- What the host writes to the input latch just before step `n`, if it writes (70_reset_and_hazards.md R267; D29). A free
value; safe: notes/assumptions/5.md. -/
opaque Config.keyWrite : Nat → Option Keys

/-- Which of several newly pressed keys completes a wait at step `n` (44_input_timers.md R214; D14). A free value; safe:
notes/assumptions/6.md. -/
opaque Config.keyPick : Nat → Nat

end Sys2Proof
end

