-- ==== Sys2Proof/Machine/State.lean ====
section
/-! DEFINITION. The state of the CORE (10_state.md R20 to R40, 20_memory.md R60), as plain data, and the machine right
after reset (10_state.md R39, 70_reset_and_hazards.md R260). -/

namespace Sys2Proof.Machine

/-- The three fault codes of 60_exceptions.md R231, each with the recorded `fpc` and `fword`. The operation that raises one
records it in the status register; `step` answers it from the halted state, from which no step exists (R232). -/
inductive Fault where
  /-- Code 1, raised by the engine on an UNRECOGNIZED word (30_encoding.md R112). Safe: the spec's own fault. -/
  | decodeFailure (fpc fword : Word)
  /-- Code 2, raised by call when SP + 2 > STACK_LIMIT (40_control_flow.md R133). Safe: the spec's own fault. -/
  | stackOverflow (fpc fword : Word)
  /-- Code 3, raised by return when SP < STACK_BASE + 2 (40_control_flow.md R131). Safe: the spec's own fault. -/
  | stackUnderflow (fpc fword : Word)
  deriving DecidableEq, Repr

/-- Why the model gives an instruction no meaning. -/
inductive Refusal where
  /-- Raised only by an arm of `exec` whose instruction has no meaning yet; no arm does so. Safe: the run stops. -/
  | notModelled (mnemonic : String)
  deriving DecidableEq, Repr

/-- The engine's status register (10_state.md R35). -/
inductive Status where
  /-- The next step fetches and executes the instruction at PC. -/
  | running
  /-- A wait-key is blocked: its destination register and the latch sample it last saw. -/
  | waitingKey (xw : Nibble) (prev : Keys)
  /-- A fault stopped the machine: `Halted(code, fpc, fword)`. -/
  | halted (f : Fault)
  deriving DecidableEq, Repr

/-- The framebuffer: 32 rows of 64 pixels, origin top-left (10_state.md R32). -/
abbrev Framebuffer := Vector (Vector Bool 64) 32

/-- Memory: the cells that differ from their reset content, addresses strictly rising (20_memory.md R60). -/
abbrev Memory := List Host.Cell

/-- The parameters fixed when the machine is built (10_state.md R37). No step changes them. They stand in the state so
that a statement about every state is a statement about every choice of them. -/
structure Params where
  /-- STACK_BASE, the initial stack pointer. -/
  stackBase : Word
  /-- STACK_LIMIT, the exclusive top of the stack region. -/
  stackLimit : Word
  /-- FONT, the reset contents of 0x000 to 0x04F. -/
  font : Vector Byte 80
  deriving DecidableEq, Repr

/-- The inputs of 10_state.md R40 that the host presents to the next step. -/
structure Inputs where
  /-- `tick`, sampled once per step. -/
  tick : Bool
  /-- `rand`, sampled by rand-mask. -/
  rand : Byte
  /-- What the host writes to the latch before the step, if it writes. -/
  keyWrite : Option Keys
  /-- Selects the key that completes a wait when several are newly pressed. -/
  keyPick : Nat
  deriving DecidableEq, Repr

/-- The inputs the environment presents to step `n`. -/
def Inputs.ofStep (n : Nat) : Inputs :=
  { tick := Config.tick n, rand := Config.rand n, keyWrite := Config.keyWrite n, keyPick := Config.keyPick n }

/-- Everything the spec gives the machine, and the model's own `env` and `stepNo`. -/
structure State where
  /-- V0 to VF (10_state.md R20). -/
  v : Vector Byte 16
  /-- The index register I (10_state.md R23). -/
  i : Word
  /-- The program counter PC (10_state.md R24). -/
  pc : Word
  /-- The stack pointer SP (10_state.md R27). -/
  sp : Word
  /-- The current instruction IR (10_state.md R29). -/
  ir : Word
  /-- The delay timer DT (10_state.md R30). -/
  dt : Byte
  /-- The sound timer ST (10_state.md R31). -/
  st : Byte
  /-- The framebuffer FB (10_state.md R32). -/
  fb : Framebuffer
  /-- The input latch KEY (10_state.md R34). -/
  keys : Keys
  /-- Memory (20_memory.md R60). -/
  mem : Memory
  /-- The engine status (10_state.md R35). -/
  status : Status
  /-- The log events emitted so far, newest first: an output, not architectural (40_control_flow.md R130). -/
  log : List Addr
  /-- STACK_BASE, STACK_LIMIT and FONT (10_state.md R37). -/
  params : Params
  /-- The MODEL's own: the inputs presented to the next step. -/
  env : Inputs
  /-- The MODEL's own: the counter the free inputs are indexed by. -/
  stepNo : Nat
  deriving DecidableEq, Repr

/-- The reset state for given parameters and an empty ROM (10_state.md R39). -/
def State.init (p : Params) : State :=
  { v := Vector.replicate 16 0x00
    i := 0x0000
    pc := BitVec.ofNat 16 Config.programOrigin
    sp := p.stackBase
    ir := 0x0000
    dt := 0x00
    st := 0x00
    fb := Vector.replicate 32 (Vector.replicate 64 false)
    keys := 0x0000
    mem := []
    status := .running
    log := []
    params := p
    env := Inputs.ofStep 0
    stepNo := 0 }

/-- The parameters of the machine `State.reset` builds (notes/assumptions/1.md, notes/assumptions/2.md). -/
def Params.reset : Params :=
  { stackBase := Config.stackBase, stackLimit := Config.stackLimit, font := Config.font }

/-- The machine right after reset with an empty ROM (70_reset_and_hazards.md R260, R261). -/
def State.reset : State := State.init Params.reset

end Sys2Proof.Machine
end

