-- ==== Sys2Proof/Machine/Ops.lean ====
section
/-! DEFINITION. The named operations over registers and memory, raising a fault, the timer tick, the host's write port and
the reset procedure: everything the meanings share. -/

namespace Sys2Proof.Machine

/-! ### Registers (10_state.md R20 to R31) -/

/-- `V[x]` (00_scope.md R10). -/
def State.getV (s : State) (x : Nibble) : Byte := s.v[x.toNat]'x.isLt

/-- `V[x] <- b` (00_scope.md R10). -/
def State.setV (s : State) (x : Nibble) (b : Byte) : State := { s with v := s.v.set x.toNat b x.isLt }

/-- `I <- w`. -/
def State.setI (s : State) (w : Word) : State := { s with i := w }

/-- `PC <- t`: every value written to PC is reduced mod 0x1000 (10_state.md R25). -/
def State.setPC (s : State) (t : Nat) : State := { s with pc := BitVec.ofNat 16 (t % Config.memSize) }

/-- `SP <- w`. -/
def State.setSP (s : State) (w : Word) : State := { s with sp := w }

/-- `IR <- w`. -/
def State.setIR (s : State) (w : Word) : State := { s with ir := w }

/-- `DT <- b`. -/
def State.setDT (s : State) (b : Byte) : State := { s with dt := b }

/-- `ST <- b`. -/
def State.setST (s : State) (b : Byte) : State := { s with st := b }

/-- The framebuffer is replaced. -/
def State.setFB (s : State) (fb : Framebuffer) : State := { s with fb := fb }

/-- The latch is written through the host's port (10_state.md R34). -/
def State.setKeys (s : State) (k : Keys) : State := { s with keys := k }

/-- The status register is written. -/
def State.setStatus (s : State) (st : Status) : State := { s with status := st }

/-- `emit log(LegacyCall, nnn)` (40_control_flow.md R130). -/
def State.emitLog (s : State) (nnn : Addr) : State := { s with log := nnn :: s.log }

/-- The environment presents the inputs of the next step. -/
def State.nextInputs (s : State) : State := { s with env := Inputs.ofStep (s.stepNo + 1), stepNo := s.stepNo + 1 }

/-! ### The PC policy (30_encoding.md R111) -/

/-- `advance2`. -/
def State.advance2 (s : State) : State := s.setPC (s.pc.toNat + 2)

/-- `advance4`. -/
def State.advance4 (s : State) : State := s.setPC (s.pc.toNat + 4)

/-- `if cond then advance4 else advance2`. -/
def State.skipIf (s : State) (cond : Bool) : State := if cond then s.advance4 else s.advance2

/-! ### Memory (20_memory.md R60 to R69) -/

/-- What an address that memory does not list reads as: its reset content, FONT below 0x050 and zero above
(20_memory.md R61, 70_reset_and_hazards.md R260). -/
def Memory.unlisted (font : Vector Byte 80) (a : Nat) : Byte := if h : a < 80 then font[a] else 0x00

/-- The value memory lists for an address. -/
def Memory.find : Memory → Nat → Option Byte
  | [], _ => none
  | c :: m, a => if a = c.1 then some c.2 else Memory.find m a

/-- Memory without an entry for an address. -/
def Memory.erase : Memory → Nat → Memory
  | [], _ => []
  | c :: m, a => if a = c.1 then Memory.erase m a else c :: Memory.erase m a

/-- Memory with an entry for an address, in rising order. -/
def Memory.insert : Memory → Nat → Byte → Memory
  | [], a, b => [(a, b)]
  | c :: m, a, b =>
    if a < c.1 then (a, b) :: c :: m
    else if a = c.1 then (a, b) :: m
    else c :: Memory.insert m a b

/-- The canonical form: addresses in range and strictly rising, no entry equal to what an unlisted address reads as. -/
def Memory.wf (font : Vector Byte 80) : Memory → Bool
  | [] => true
  | c :: m =>
    decide (c.1 < Config.memSize) && c.2 != Memory.unlisted font c.1 && m.all (fun d => decide (c.1 < d.1)) &&
      Memory.wf font m

/-- Every byte address is reduced mod 0x1000 before use (20_memory.md R62). -/
def wrapAddr (a : Nat) : Nat := a % Config.memSize

/-- `MemRead(a, 1)` (20_memory.md R63). -/
def State.readByte (s : State) (a : Nat) : Byte :=
  (Memory.find s.mem (wrapAddr a)).getD (Memory.unlisted s.params.font (wrapAddr a))

/-- `MemRead(a, 2)`, big-endian (20_memory.md R63). -/
def State.readWord (s : State) (a : Nat) : Word := wordOfBytes (s.readByte a) (s.readByte (a + 1))

/-- `MemWrite(a, 1, b)`; no address is protected (20_memory.md R64). -/
def State.writeByte (s : State) (a : Nat) (b : Byte) : State :=
  { s with
    mem :=
      if b = Memory.unlisted s.params.font (wrapAddr a) then Memory.erase s.mem (wrapAddr a)
      else Memory.insert s.mem (wrapAddr a) b }

/-- `MemWrite(a, 2, w)`: the high byte first, at the lower address (20_memory.md R64). -/
def State.writeWord (s : State) (a : Nat) (w : Word) : State :=
  (s.writeByte a (hiByte w)).writeByte (a + 1) (loByte w)

/-- Bytes written one after another at rising addresses. -/
def State.writeBytes (s : State) (a : Nat) : List Byte → State
  | [] => s
  | b :: bs => (s.writeByte a b).writeBytes (a + 1) bs

/-! ### Raising a fault (60_exceptions.md R230 to R234) -/

/-- `raise`: the one entry into the halted state. Nothing else changes (R233), and there is no return from it: the machine
has no trap return (R236). DESIGN CHOICE: the step that faults answers this state and the step after it answers the fault;
notes/assumptions/8.md. -/
def State.raise (s : State) (f : Fault) : State := s.setStatus (.halted f)

/-- The code number of a fault (60_exceptions.md R231). -/
def Fault.code : Fault → Nat
  | .decodeFailure _ _ => 1
  | .stackOverflow _ _ => 2
  | .stackUnderflow _ _ => 3

/-- `fpc`, the PC of the faulting instruction. -/
def Fault.fpc : Fault → Word
  | .decodeFailure p _ => p
  | .stackOverflow p _ => p
  | .stackUnderflow p _ => p

/-- `fword`, the word of the faulting instruction. -/
def Fault.fword : Fault → Word
  | .decodeFailure _ w => w
  | .stackOverflow _ w => w
  | .stackUnderflow _ w => w

/-- Whether a fault has stopped the engine. -/
def Status.isHalted : Status → Bool
  | .halted _ => true
  | .running => false
  | .waitingKey _ _ => false

/-! ### Timers and the host's write port (60_exceptions.md R238, 70_reset_and_hazards.md R267) -/

/-- A timer decremented by one if it is not zero (60_exceptions.md R238, R239). -/
def countDown (b : Byte) : Byte := if b = 0 then 0 else b - 1

/-- `timer_tick(tick)` (60_exceptions.md R238). -/
def State.timerTick (s : State) (tick : Bool) : State :=
  if tick then (s.setDT (countDown s.dt)).setST (countDown s.st) else s

/-- The host's latch write, before the engine acts (70_reset_and_hazards.md R266, R267). -/
def State.hostWrite (s : State) : State := s.setKeys (s.env.keyWrite.getD s.keys)

/-- The end of a step: the tick unless the step faulted (30_encoding.md R109), then the next inputs. -/
def State.finish (s : State) : State :=
  (if s.status.isHalted then s else s.timerTick s.env.tick).nextInputs

/-! ### Fetch (30_encoding.md R110) -/

/-- The fetch: two bytes at PC, big-endian, into IR. It does not move PC and never faults. -/
def State.fetch (s : State) : State := s.setIR (s.readWord s.pc.toNat)

/-- A row of spec/opcode_table.json placed where the next step fetches it, the engine made ready to fetch. -/
def State.placeTableWord (s : State) (nbits w : Nat) : State :=
  (s.writeBytes s.pc.toNat (tableBytes nbits w)).setStatus .running

/-! ### Reset (70_reset_and_hazards.md R260 to R262) -/

/-- Why no machine is built (70_reset_and_hazards.md R262, 00_scope.md R7). -/
inductive LoadError where
  | stackRegion
  | fontNot80Bytes
  | romTooLong
  deriving DecidableEq, Repr

/-- The constraints on the stack region (00_scope.md R7). -/
def stackRegionOk (base limit : Word) : Bool :=
  decide (0x050 ≤ base.toNat) && decide (base.toNat + 2 ≤ limit.toNat) && decide (limit.toNat ≤ 0x200)

/-- `reset(rom, FONT)` for given stack parameters: the zero state, FONT at 0x000, the ROM from 0x200, PC and SP set and
the status Running; or a load error, and then no machine. -/
def State.boot (base limit : Word) (font rom : List Byte) : Except LoadError State :=
  if stackRegionOk base limit then
    if h : font.length = 80 then
      if rom.length ≤ Config.maxRomBytes then
        .ok ((State.init { stackBase := base, stackLimit := limit, font := ⟨font.toArray, by simpa using h⟩ }).writeBytes
          Config.programOrigin rom)
      else .error .romTooLong
    else .error .fontNot80Bytes
  else .error .stackRegion

end Sys2Proof.Machine
end

