-- ==== Sys2Proof/Machine/Operands.lean ====
section
/-! DEFINITION. The values instructions compute from their operands (30_encoding.md R97): the register pair of family 0x8
read after the flag write, the key index, the `I + k` addresses, the decimal digits, and the sprite bits. -/

namespace Sys2Proof.Machine

/-- The address `I + k`, the only addressing mode (42_index_memory.md, opening paragraph); memory reduces it. -/
def State.indexAddr (s : State) (k : Nat) : Nat := s.i.toNat + k

/-- The target of jump-offset: `nnn + V[0]`, always V0 (40_control_flow.md R138). -/
def State.offsetTarget (s : State) (nnn : Addr) : Nat := nnn.toNat + (s.getV 0x0).toNat

/-- The latch bit skip-if-key and skip-if-not-key read: key `V[x] mod 16` (44_input_timers.md R212). -/
def State.keyAt (s : State) (x : Nibble) : Bool := s.keys.getLsbD ((s.getV x).toNat % 16)

/-- The hundreds digit (42_index_memory.md R173). -/
def hundredsDigit (b : Byte) : Byte := BitVec.ofNat 8 (b.toNat / 100)

/-- The tens digit (42_index_memory.md R173). -/
def tensDigit (b : Byte) : Byte := BitVec.ofNat 8 (b.toNat / 10 % 10)

/-- The ones digit (42_index_memory.md R173). -/
def onesDigit (b : Byte) : Byte := BitVec.ofNat 8 (b.toNat % 10)

/-- Sprite column `c` of a row byte, most significant bit leftmost (43_display.md R192). -/
def spriteBit (b : Byte) (c : Nat) : Bool := b.getLsbD (7 - c)

/-- The keys whose latch bit went from false to true between two samples, lowest first (44_input_timers.md R214). -/
def newKeys (prev now : Keys) : List Nibble :=
  ((List.range 16).filter fun k => !prev.getLsbD k && now.getLsbD k).map (BitVec.ofNat 4)

/-- One of the newly pressed keys, chosen by the environment; none when there is none (44_input_timers.md R214; D14). -/
def chosenKey (pick : Nat) (prev now : Keys) : Option Nibble :=
  (newKeys prev now)[pick % (newKeys prev now).length]?

/-- Pixel `FB[r][c]`, both coordinates wrapping (10_state.md R32, 43_display.md R193). -/
def pixelAt (fb : Framebuffer) (r c : Nat) : Bool :=
  (fb[r % 32]'(Nat.mod_lt r (by decide)))[c % 64]'(Nat.mod_lt c (by decide))

/-- `FB[r][c] <- not FB[r][c]`, both coordinates wrapping (43_display.md R191, R193). -/
def flipPixel (fb : Framebuffer) (r c : Nat) : Framebuffer :=
  fb.set (r % 32)
    ((fb[r % 32]'(Nat.mod_lt r (by decide))).set (c % 64) (!pixelAt fb r c) (Nat.mod_lt c (by decide)))
    (Nat.mod_lt r (by decide))

/-- The clear framebuffer (43_display.md R190). -/
def clearFB : Framebuffer := Vector.replicate 32 (Vector.replicate 64 false)

end Sys2Proof.Machine
end

