-- ==== Sys2Proof/Machine/Flags.lean ====
section
/-! DEFINITION. Every value an operation writes to VF (10_state.md R21), and the one write order of family 0x8: the flag
first, the result second and read after it (41_alu.md, WRITE ORDER; 90_conflicts.md C3). -/

namespace Sys2Proof.Machine

/-- The carry of add-reg: 1 when the sum is over 255 (41_alu.md R156). -/
def carryFlag (a b : Byte) : Byte := if a.toNat + b.toNat > 255 then 1 else 0

/-- The not-borrow of `a - b`: 0 when `a < b`, else 1 (41_alu.md R157, R159). -/
def notBorrowFlag (a b : Byte) : Byte := if a.toNat < b.toNat then 0 else 1

/-- The bit shift-right shifts out (41_alu.md R158). -/
def lowBitFlag (a : Byte) : Byte := a &&& 0x01

/-- The bit shift-left shifts out (41_alu.md R160). -/
def highBitFlag (a : Byte) : Byte := if a &&& 0x80 ≠ 0 then 1 else 0

/-- The collision flag of draw-sprite (43_display.md R194). -/
def collisionFlag (hit : Bool) : Byte := if hit then 1 else 0

/-- `VF <- f; V[x] <- result`, the result computed from the registers as the flag write left them. -/
def State.flagThen (s : State) (x : Nibble) (f : Byte) (result : State → Byte) : State :=
  (s.setV vf f).setV x (result (s.setV vf f))

end Sys2Proof.Machine
end

