-- ==== Sys2Proof/Machine/Alu.lean ====
section
/-! DEFINITION. The meanings of the register arithmetic and logic family (41_alu.md R150 to R162). In family 0x8 the flag
is written first and the operands are read again after it (R156 to R160). -/

namespace Sys2Proof.Machine

/-- move-imm (41_alu.md R150). -/
def execMoveImm (x : Nibble) (nn : Byte) (s : State) : Host.Outcome State Fault Refusal := .next (s.setV x nn).advance2

/-- add-imm: no flag (41_alu.md R151). -/
def execAddImm (x : Nibble) (nn : Byte) (s : State) : Host.Outcome State Fault Refusal :=
  .next (s.setV x (s.getV x + nn)).advance2

/-- move-reg (41_alu.md R152). -/
def execMoveReg (x y : Nibble) (s : State) : Host.Outcome State Fault Refusal := .next (s.setV x (s.getV y)).advance2

/-- or: VF is not reset (41_alu.md R153). -/
def execOrReg (x y : Nibble) (s : State) : Host.Outcome State Fault Refusal :=
  .next (s.setV x (s.getV x ||| s.getV y)).advance2

/-- and: VF is not reset (41_alu.md R154). -/
def execAndReg (x y : Nibble) (s : State) : Host.Outcome State Fault Refusal :=
  .next (s.setV x (s.getV x &&& s.getV y)).advance2

/-- xor: VF is not reset (41_alu.md R155). -/
def execXorReg (x y : Nibble) (s : State) : Host.Outcome State Fault Refusal :=
  .next (s.setV x (s.getV x ^^^ s.getV y)).advance2

/-- add-reg (41_alu.md R156). -/
def execAddReg (x y : Nibble) (s : State) : Host.Outcome State Fault Refusal :=
  .next (s.flagThen x (carryFlag (s.getV x) (s.getV y)) fun t => t.getV x + t.getV y).advance2

/-- sub-reg (41_alu.md R157). -/
def execSubReg (x y : Nibble) (s : State) : Host.Outcome State Fault Refusal :=
  .next (s.flagThen x (notBorrowFlag (s.getV x) (s.getV y)) fun t => t.getV x - t.getV y).advance2

/-- shift-right: V[x] itself, y unused (41_alu.md R158). -/
def execShiftRight (x _y : Nibble) (s : State) : Host.Outcome State Fault Refusal :=
  .next (s.flagThen x (lowBitFlag (s.getV x)) fun t => t.getV x >>> 1).advance2

/-- sub-reg-rev (41_alu.md R159). -/
def execSubRegRev (x y : Nibble) (s : State) : Host.Outcome State Fault Refusal :=
  .next (s.flagThen x (notBorrowFlag (s.getV y) (s.getV x)) fun t => t.getV y - t.getV x).advance2

/-- shift-left: V[x] itself, y unused (41_alu.md R160). -/
def execShiftLeft (x _y : Nibble) (s : State) : Host.Outcome State Fault Refusal :=
  .next (s.flagThen x (highBitFlag (s.getV x)) fun t => t.getV x <<< 1).advance2

/-- rand-mask: the byte the environment presents to this step (41_alu.md R161). -/
def execRandMask (x : Nibble) (nn : Byte) (s : State) : Host.Outcome State Fault Refusal :=
  .next (s.setV x (s.env.rand &&& nn)).advance2

end Sys2Proof.Machine
end

