-- ==== Sys2Proof/Machine/ControlFlow.lean ====
section
/-! DEFINITION. The meanings of the control-flow family (40_control_flow.md R130 to R139). -/

namespace Sys2Proof.Machine

/-- legacy-call: logged, otherwise inert (40_control_flow.md R130). -/
def execLegacyCall (nnn : Addr) (s : State) : Host.Outcome State Fault Refusal := .next (s.emitLog nnn).advance2

/-- return: StackUnderflow on an empty stack, checked before anything is read (40_control_flow.md R131). -/
def execRet (s : State) : Host.Outcome State Fault Refusal :=
  if s.sp.toNat < s.params.stackBase.toNat + 2 then .next (s.raise (.stackUnderflow s.pc s.ir))
  else .next ((s.setSP (s.sp - 2)).setPC (s.readWord (s.sp.toNat - 2)).toNat)

/-- jump (40_control_flow.md R132). -/
def execJump (nnn : Addr) (s : State) : Host.Outcome State Fault Refusal := .next (s.setPC nnn.toNat)

/-- call: StackOverflow on a full stack, checked before anything is written (40_control_flow.md R133). -/
def execCall (nnn : Addr) (s : State) : Host.Outcome State Fault Refusal :=
  if s.sp.toNat + 2 > s.params.stackLimit.toNat then .next (s.raise (.stackOverflow s.pc s.ir))
  else
    .next (((s.writeWord s.sp.toNat (BitVec.ofNat 16 ((s.pc.toNat + 2) % Config.memSize))).setSP (s.sp + 2)).setPC
      nnn.toNat)

/-- skip-if-eq-imm (40_control_flow.md R134). -/
def execSkipIfEqImm (x : Nibble) (nn : Byte) (s : State) : Host.Outcome State Fault Refusal :=
  .next (s.skipIf (s.getV x == nn))

/-- skip-if-ne-imm (40_control_flow.md R135). -/
def execSkipIfNeImm (x : Nibble) (nn : Byte) (s : State) : Host.Outcome State Fault Refusal :=
  .next (s.skipIf (s.getV x != nn))

/-- skip-if-eq-reg (40_control_flow.md R136). -/
def execSkipIfEqReg (x y : Nibble) (s : State) : Host.Outcome State Fault Refusal :=
  .next (s.skipIf (s.getV x == s.getV y))

/-- skip-if-ne-reg (40_control_flow.md R137). -/
def execSkipIfNeReg (x y : Nibble) (s : State) : Host.Outcome State Fault Refusal :=
  .next (s.skipIf (s.getV x != s.getV y))

/-- jump-offset: the offset register is always V0 (40_control_flow.md R138). -/
def execJumpOffset (nnn : Addr) (s : State) : Host.Outcome State Fault Refusal := .next (s.setPC (s.offsetTarget nnn))

end Sys2Proof.Machine
end

