-- ==== Sys2Proof/Machine/Display.lean ====
section
/-! DEFINITION. The meanings of the display family (43_display.md R190 to R196): the XOR blit pixel by pixel, in the spec's
own order, with one collision flag for the whole draw. -/

namespace Sys2Proof.Machine

/-- The first `k` columns of one sprite row, ascending: each set bit flips its pixel and records whether it was set. -/
def drawBits (b : Byte) (row cx : Nat) (fb : Framebuffer) (hit : Bool) : Nat → Framebuffer × Bool
  | 0 => (fb, hit)
  | k + 1 =>
    let d := drawBits b row cx fb hit k
    if spriteBit b k then (flipPixel d.1 row (cx + k), d.2 || pixelAt d.1 row (cx + k)) else d

/-- The first `k` rows of a sprite, ascending: row `r` is the byte `bytes r` (43_display.md R192). -/
def drawRows (bytes : Nat → Byte) (cy cx : Nat) (fb : Framebuffer) : Nat → Framebuffer × Bool
  | 0 => (fb, false)
  | k + 1 =>
    let d := drawRows bytes cy cx fb k
    drawBits (bytes k) (cy + k) cx d.1 d.2 8

/-- clear-screen (43_display.md R190). -/
def execClearScreen (s : State) : Host.Outcome State Fault Refusal := .next (s.setFB clearFB).advance2

/-- draw-sprite: V[x] is the column and V[y] the row, both read first; VF is written last (43_display.md R191, R194). -/
def execDrawSprite (x y n : Nibble) (s : State) : Host.Outcome State Fault Refusal :=
  let d := drawRows (fun r => s.readByte (s.indexAddr r)) (s.getV y).toNat (s.getV x).toNat s.fb n.toNat
  .next ((s.setFB d.1).setV vf (collisionFlag d.2)).advance2

end Sys2Proof.Machine
end

