-- ==== Sys2Proof/Machine/IndexMemory.lean ====
section
/-! DEFINITION. The meanings of the index-register and memory-block family (42_index_memory.md R170 to R175). `I` is never
modified by an access. -/

namespace Sys2Proof.Machine

/-- The first `k` registers stored at `I`, ascending (42_index_memory.md R174). -/
def State.dumpRegs (s : State) : Nat → State
  | 0 => s
  | k + 1 => (s.dumpRegs k).writeByte (s.indexAddr k) (s.getV (BitVec.ofNat 4 k))

/-- The first `k` registers loaded from `I`, ascending (42_index_memory.md R175). -/
def State.loadRegs (s : State) : Nat → State
  | 0 => s
  | k + 1 => (s.loadRegs k).setV (BitVec.ofNat 4 k) (s.readByte (s.indexAddr k))

/-- set-index (42_index_memory.md R170). -/
def execSetIndex (nnn : Addr) (s : State) : Host.Outcome State Fault Refusal := .next (s.setI (nnn.setWidth 16)).advance2

/-- index-add: the register's value, the sum kept to 16 bits (42_index_memory.md R171). -/
def execIndexAdd (x : Nibble) (s : State) : Host.Outcome State Fault Refusal :=
  .next (s.setI (s.i + (s.getV x).setWidth 16)).advance2

/-- index-set-sprite: the whole 8-bit value times 5 (42_index_memory.md R172). -/
def execIndexSetSprite (x : Nibble) (s : State) : Host.Outcome State Fault Refusal :=
  .next (s.setI ((s.getV x).setWidth 16 * 5)).advance2

/-- store-bcd (42_index_memory.md R173). -/
def execStoreBcd (x : Nibble) (s : State) : Host.Outcome State Fault Refusal :=
  .next
    (((s.writeByte (s.indexAddr 0) (hundredsDigit (s.getV x))).writeByte (s.indexAddr 1) (tensDigit (s.getV x))).writeByte
      (s.indexAddr 2) (onesDigit (s.getV x))).advance2

/-- register-dump: V0 to V[x] inclusive (42_index_memory.md R174). -/
def execRegisterDump (x : Nibble) (s : State) : Host.Outcome State Fault Refusal := .next (s.dumpRegs (x.toNat + 1)).advance2

/-- register-load: V0 to V[x] inclusive (42_index_memory.md R175). -/
def execRegisterLoad (x : Nibble) (s : State) : Host.Outcome State Fault Refusal := .next (s.loadRegs (x.toNat + 1)).advance2

end Sys2Proof.Machine
end

