-- ==== Sys2Proof/Machine/InputTimers.lean ====
section
/-! DEFINITION. The meanings of the input and timer family and the poll of a blocked wait-key (44_input_timers.md R210 to
R217). -/

namespace Sys2Proof.Machine

/-- skip-if-key (44_input_timers.md R210). -/
def execSkipIfKey (x : Nibble) (s : State) : Host.Outcome State Fault Refusal := .next (s.skipIf (s.keyAt x))

/-- skip-if-not-key (44_input_timers.md R211). -/
def execSkipIfNotKey (x : Nibble) (s : State) : Host.Outcome State Fault Refusal := .next (s.skipIf (!s.keyAt x))

/-- wait-key: the latch is sampled; PC and V[x] wait for the poll that completes it (44_input_timers.md R213). -/
def execWaitKey (x : Nibble) (s : State) : Host.Outcome State Fault Refusal := .next (s.setStatus (.waitingKey x s.keys))

/-- A poll of a blocked wait-key (44_input_timers.md R214). -/
def State.poll (s : State) (xw : Nibble) (prev : Keys) : State :=
  match chosenKey s.env.keyPick prev s.keys with
  | none => s.setStatus (.waitingKey xw s.keys)
  | some k => ((s.setV xw (k.setWidth 8)).setStatus .running).advance2

/-- read-delay: DT before this step's tick (44_input_timers.md R215). -/
def execReadDelay (x : Nibble) (s : State) : Host.Outcome State Fault Refusal := .next (s.setV x s.dt).advance2

/-- set-delay (44_input_timers.md R216). -/
def execSetDelay (x : Nibble) (s : State) : Host.Outcome State Fault Refusal := .next (s.setDT (s.getV x)).advance2

/-- set-sound (44_input_timers.md R217). -/
def execSetSound (x : Nibble) (s : State) : Host.Outcome State Fault Refusal := .next (s.setST (s.getV x)).advance2

end Sys2Proof.Machine
end

