-- ==== Sys2Proof/Machine/Cycle.lean ====
section
/-! DEFINITION. The execution cycle (30_encoding.md R109 to R112): one engine step in each status. -/

namespace Sys2Proof.Machine

/-- Fetch, decode and run one instruction: an UNRECOGNIZED word raises DecodeFailure and runs no handler
(30_encoding.md R109, R112). -/
def runInstr (s : State) : Host.Outcome State Fault Refusal :=
  match decode s.fetch.ir with
  | .error _ => .next (s.fetch.raise (.decodeFailure s.fetch.pc s.fetch.ir))
  | .ok i => exec i s.fetch

/-- What follows a handler that answers a next state (30_encoding.md R109). -/
def finishOutcome : Host.Outcome State Fault Refusal → Host.Outcome State Fault Refusal
  | .next t => .next t.finish
  | .fault f => .fault f
  | .refused r => .refused r

/-- One engine step: the host's latch write, then an instruction or a poll, then the tick and the next inputs. From a
halted state there is no step, and the outcome is the fault it records (60_exceptions.md R232). -/
def engineStep (s : State) : Host.Outcome State Fault Refusal :=
  match s.status with
  | .halted f => .fault f
  | .waitingKey xw prev => .next (s.hostWrite.poll xw prev).finish
  | .running => finishOutcome (runInstr s.hostWrite)

end Sys2Proof.Machine
end

