-- ==== Sys2Proof/Machine/Step.lean ====
section
/-! DEFINITION. The step function of the machine, and the placing of an instruction where it fetches. -/

namespace Sys2Proof.Machine

/-- One step (30_encoding.md R109): the engine's step, defined in Cycle. -/
def step (s : State) : Host.Outcome State Fault Refusal := engineStep s

/-- The state with an instruction of the opcode table placed at PC, big-endian, and the engine Running, so that the next
step fetches and runs it. It stands for the loading of a program: notes/assumptions/14.md. -/
def State.withFetchWord (s : State) (nbits w : Nat) : State := s.placeTableWord nbits w

end Sys2Proof.Machine
end

