-- ==== Sys2Proof/Safety.lean ====
section
/-! DEFINITION. The terms claims are stated in: fault-free states, the components of the state and frames over them, the
write table of the instructions, and the machine's invariant. -/

namespace Sys2Proof

open Sys2Proof.Machine

/-- No fault has stopped the engine. A step that faults answers a next state that is not fault-free
(notes/assumptions/8.md), so a claim that a run is free of faults is a claim that each of its states is. -/
def Machine.State.faultFree (s : State) : Bool := !s.status.isHalted

/-- One observable component of the state: everything of State, memory by the byte and the framebuffer by the pixel. -/
inductive Comp where
  | reg (x : Nibble)
  | index
  | pc
  | sp
  | ir
  | dt
  | st
  | pixel (r c : Nat)
  | keys
  | byte (a : Nat)
  | status
  | log
  | params
  | env
  | stepNo
  deriving DecidableEq, Repr

/-- Two states agree on a component. Memory is compared through the read of one byte, at every address. -/
def Comp.same (s t : State) : Comp → Prop
  | .reg x => t.getV x = s.getV x
  | .index => t.i = s.i
  | .pc => t.pc = s.pc
  | .sp => t.sp = s.sp
  | .ir => t.ir = s.ir
  | .dt => t.dt = s.dt
  | .st => t.st = s.st
  | .pixel r c => pixelAt t.fb r c = pixelAt s.fb r c
  | .keys => t.keys = s.keys
  | .byte a => t.readByte a = s.readByte a
  | .status => t.status = s.status
  | .log => t.log = s.log
  | .params => t.params = s.params
  | .env => t.env = s.env
  | .stepNo => t.stepNo = s.stepNo

/-- The frame from `s` to `t`: every component outside `written` is as before (00_scope.md R11). -/
def Frame (s t : State) (written : Comp → Prop) : Prop := ∀ c, ¬ written c → Comp.same s t c

/-- PC moved `k` bytes on, reduced mod 0x1000 (10_state.md R25, 30_encoding.md R111). -/
def Advances (s t : State) (k : Nat) : Prop := t.pc.toNat = (s.pc.toNat + k) % 0x1000

/-- The word at PC: what the next fetch reads (30_encoding.md R110). -/
def Machine.State.nextWord (s : State) : Word := s.readWord s.pc.toNat

/-- What the latch holds when the engine acts: the host's write if it makes one (70_reset_and_hazards.md R267). -/
def Machine.State.latched (s : State) : Keys := s.env.keyWrite.getD s.keys

/-- Key `k` is newly pressed: its latch bit went from false to true (44_input_timers.md R214). -/
def newlyPressed (prev now : Keys) (k : Nibble) : Prop := prev.getLsbD k.toNat = false ∧ now.getLsbD k.toNat = true

/-- The byte at `a` is one of the `n` bytes stored from address `base`, each address reduced mod 0x1000. -/
def stored (base n a : Nat) : Prop := ∃ k < n, a % 0x1000 = (base + k) % 0x1000

/-- The components an instruction may write (10_state.md R22 for registers, 20_memory.md R68 for memory, and the rule of
each instruction for the rest). -/
def mayWrite (s : State) : Instr → Comp → Prop
  | .legacyCall _, c => c = .pc ∨ c = .log
  | .clearScreen, c => c = .pc ∨ ∃ r k, c = .pixel r k
  | .ret, c => c = .pc ∨ c = .sp ∨ c = .status
  | .jump _, c => c = .pc
  | .call _, c => c = .pc ∨ c = .sp ∨ c = .status ∨ ∃ a, c = .byte a ∧ stored s.sp.toNat 2 a
  | .skipIfEqImm _ _, c => c = .pc
  | .skipIfNeImm _ _, c => c = .pc
  | .skipIfEqReg _ _, c => c = .pc
  | .moveImm x _, c => c = .pc ∨ c = .reg x
  | .addImm x _, c => c = .pc ∨ c = .reg x
  | .moveReg x _, c => c = .pc ∨ c = .reg x
  | .orReg x _, c => c = .pc ∨ c = .reg x
  | .andReg x _, c => c = .pc ∨ c = .reg x
  | .xorReg x _, c => c = .pc ∨ c = .reg x
  | .addReg x _, c => c = .pc ∨ c = .reg x ∨ c = .reg vf
  | .subReg x _, c => c = .pc ∨ c = .reg x ∨ c = .reg vf
  | .shiftRight x _, c => c = .pc ∨ c = .reg x ∨ c = .reg vf
  | .subRegRev x _, c => c = .pc ∨ c = .reg x ∨ c = .reg vf
  | .shiftLeft x _, c => c = .pc ∨ c = .reg x ∨ c = .reg vf
  | .skipIfNeReg _ _, c => c = .pc
  | .setIndex _, c => c = .pc ∨ c = .index
  | .jumpOffset _, c => c = .pc
  | .randMask x _, c => c = .pc ∨ c = .reg x
  | .drawSprite _ _ _, c => c = .pc ∨ c = .reg vf ∨ ∃ r k, c = .pixel r k
  | .skipIfKey _, c => c = .pc
  | .skipIfNotKey _, c => c = .pc
  | .readDelay x, c => c = .pc ∨ c = .reg x
  | .waitKey _, c => c = .status
  | .setDelay _, c => c = .pc ∨ c = .dt
  | .setSound _, c => c = .pc ∨ c = .st
  | .indexAdd _, c => c = .pc ∨ c = .index
  | .indexSetSprite _, c => c = .pc ∨ c = .index
  | .storeBcd _, c => c = .pc ∨ ∃ a, c = .byte a ∧ stored s.i.toNat 3 a
  | .registerDump x, c => c = .pc ∨ ∃ a, c = .byte a ∧ stored s.i.toNat (x.toNat + 1) a
  | .registerLoad x, c => c = .pc ∨ ∃ y, c = .reg y ∧ y.toNat ≤ x.toNat

/-- Bit `c'` of sprite row `r'` is set and lands on pixel (r, c): the sprite at `I` with column V[x], row V[y] and height
`n` covers that pixel (43_display.md R191 to R193). -/
def spriteCovers (s : State) (x y n : Nibble) (r c : Nat) : Prop :=
  ∃ r' < n.toNat, ∃ c' < 8,
    ((s.getV y).toNat + r') % 32 = r % 32 ∧ ((s.getV x).toNat + c') % 64 = c % 64 ∧
      (s.readByte (s.i.toNat + r')).getLsbD (7 - c') = true

/-- The machine's invariant (10_state.md R38, R27, R25; 00_scope.md R7): admissible parameters, PC in range, SP inside the
stack region at a whole number of entries, and memory in its canonical form. -/
structure Inv (s : State) : Prop where
  region : stackRegionOk s.params.stackBase s.params.stackLimit = true
  pc : s.pc.toNat < 0x1000
  spLow : s.params.stackBase.toNat ≤ s.sp.toNat
  spHigh : s.sp.toNat ≤ s.params.stackLimit.toNat
  spEven : (s.sp.toNat - s.params.stackBase.toNat) % 2 = 0
  mem : Memory.wf s.params.font s.mem = true

end Sys2Proof
end

