-- ==== Sys2Proof/Certificates/Slice0/Obligations.lean ====
section
/-! DEFINITION. The statements for the provers. An instruction's statement gives its encoding, that it answers a next
state, what that state holds, and its frame. PC values are stated as exact numbers mod 0x1000 (10_state.md R25, the spec's
own decision D2). -/

open Sys2Proof Sys2Proof.Machine

/-! ### Encoding -/

/-- Decoding the encoding of a well-formed instruction gives it back, every operand at every value (30_encoding.md R97 to
R100; the opcode values are the spec's general knowledge, notes/assumptions/9.md). -/
def Obligations.DecodeOfEncodeIsIdentity : Prop :=
  ∀ i : Instr, i.wellFormed = true → decode (encode i) = .ok i

/-- The decoder drops no bit but the ignored bits of 30_encoding.md R98: the word it read agrees with the encoding of what
it gave on every used bit, and what it gives is well-formed. -/
def Obligations.DecodedInstructionDeterminesUsedBits : Prop :=
  ∀ (w : Word) (i : Instr), decode w = .ok i → i.wellFormed = true ∧ encode i &&& i.usedBits = w &&& i.usedBits

/-- The words with no operation are exactly those of 30_encoding.md R106 (the spec derives it from R100 to R105). -/
def Obligations.UnrecognizedWordsAreExactly : Prop :=
  ∀ w : Word,
    ((∃ i, decode w = .ok i) ↔
      ¬((w.extractLsb' 12 4 = 0x8#4 ∧ w.extractLsb' 0 4 ∈ [0x8#4, 0x9#4, 0xA#4, 0xB#4, 0xC#4, 0xD#4, 0xF#4]) ∨
        (w.extractLsb' 12 4 = 0xE#4 ∧ w.extractLsb' 0 8 ∉ [0x9E#8, 0xA1#8]) ∨
        (w.extractLsb' 12 4 = 0xF#4 ∧
          w.extractLsb' 0 8 ∉ [0x07#8, 0x0A#8, 0x15#8, 0x18#8, 0x1E#8, 0x29#8, 0x33#8, 0x55#8, 0x65#8]))) ∧
      (¬(∃ i, decode w = .ok i) → decode w = .error (.unrecognized w) ∧ decodeTag w = 35)

/-- Family 0x0 decodes on the low byte alone, bits 11:8 not examined, and never fails (30_encoding.md R101; the low-byte
reading is the spec's own decision D26). -/
def Obligations.FamilyZeroDecodesOnLowByte : Prop :=
  ∀ (hi : Nibble) (lo : Byte),
    decode (0x0#4 ++ hi ++ lo) =
      if lo = 0xE0#8 then .ok .clearScreen else if lo = 0xEE#8 then .ok .ret else .ok (.legacyCall (hi ++ lo))

/-- 30_encoding.md R105: families 0x1 to 0x7 and 0x9 to 0xD hold one operation each, whatever the low bits; so `5xyn` and
`9xyn` are the register skips for every `n`. -/
def Obligations.SingleOperationFamiliesIgnoreLowBits : Prop :=
  (∀ w w' : Word, w.extractLsb' 12 4 = w'.extractLsb' 12 4 → w.extractLsb' 12 4 ∉ [0x0#4, 0x8#4, 0xE#4, 0xF#4] →
    decodeTag w = decodeTag w' ∧ decodeTag w ≠ 35) ∧
  (∀ w w' : Word, w.extractLsb' 12 4 ∉ [0x0#4, 0x8#4, 0xE#4, 0xF#4] → w'.extractLsb' 12 4 ≠ w.extractLsb' 12 4 →
    decodeTag w' ≠ decodeTag w) ∧
  ∀ x y n : Nibble, decode (0x5#4 ++ x ++ y ++ n) = .ok (.skipIfEqReg x y) ∧
    decode (0x9#4 ++ x ++ y ++ n) = .ok (.skipIfNeReg x y)

/-- Words of every family decode to the instructions they stand for (30_encoding.md R116; 95_test_vectors.md). -/
def Obligations.SampleWordsDecode : Prop :=
  decode 0x0123 = .ok (.legacyCall 0x123) ∧ decode 0x01E0 = .ok .clearScreen ∧ decode 0x0FEE = .ok .ret ∧
    decode 0x220A = .ok (.call 0x20A) ∧ decode 0x512F = .ok (.skipIfEqReg 1 2) ∧ decode 0x6342 = .ok (.moveImm 3 0x42) ∧
    decode 0x845E = .ok (.shiftLeft 4 5) ∧ decode 0xBFFF = .ok (.jumpOffset 0xFFF) ∧
    decode 0xD012 = .ok (.drawSprite 0 1 2) ∧ decode 0xE5A1 = .ok (.skipIfNotKey 5) ∧
    decode 0xF30A = .ok (.waitKey 3) ∧ decode 0xF165 = .ok (.registerLoad 1) ∧
    decode 0xF030 = .error (.unrecognized 0xF030)

/-! ### Memory -/

/-- An address reaches memory reduced mod 0x1000. A 2-byte write at any address, odd ones and 0xFFF included, puts the high
byte at the lower address and the low byte at the next, is read back at every address that reduces to the same one, and
leaves every other byte (20_memory.md R62 to R67; the reduction is the spec's decision D1). -/
def Obligations.WordAccessIsBigEndian : Prop :=
  ∀ (s : State) (a : Nat) (w : Word),
    (∀ b, s.readByte b = s.readByte (b % 0x1000)) ∧
      (∀ b, b % 0x1000 = a % 0x1000 → ((s.writeWord a w).readByte b).toNat = w.toNat / 256) ∧
      (∀ b, b % 0x1000 = (a + 1) % 0x1000 → ((s.writeWord a w).readByte b).toNat = w.toNat % 256) ∧
      (∀ b, b % 0x1000 = a % 0x1000 → (s.writeWord a w).readWord b = w) ∧
      ∀ b, ¬stored a 2 b → (s.writeWord a w).readByte b = s.readByte b

/-! ### The cycle -/

/-- A step at a running state whose word at PC decodes to `i` is `exec` of `i` with that word in IR and the host's latch
write made, then the tick unless a fault halted the engine, then the model's own next inputs (30_encoding.md R109, R110). -/
def Obligations.StepRunsDecodedInstruction : Prop :=
  ∀ (s t : State) (i : Instr), s.status = .running → decode s.nextWord = .ok i →
    exec i { s with keys := s.latched, ir := s.nextWord } = .next t →
    step s = .next { t with
      dt := if t.faultFree && t.env.tick then (if t.dt = 0 then 0 else t.dt - 1) else t.dt
      st := if t.faultFree && t.env.tick then (if t.st = 0 then 0 else t.st - 1) else t.st
      env := Inputs.ofStep (t.stepNo + 1)
      stepNo := t.stepNo + 1 }

/-- A word with no operation halts the engine with DecodeFailure: only IR and the status change, the timers do not tick
(30_encoding.md R112; the policy is the spec's decision D3). `keys`, `env` and `stepNo` are the host's and the model's. -/
def Obligations.UnrecognizedWordHalts : Prop :=
  ∀ s : State, s.status = .running → (∀ i, decode s.nextWord ≠ .ok i) →
    ∃ t, step s = .next t ∧ t.status = .halted (.decodeFailure s.pc s.nextWord) ∧ t.ir = s.nextWord ∧
      t.keys = s.latched ∧
      Frame s t fun c => c = .ir ∨ c = .status ∨ c = .keys ∨ c = .env ∨ c = .stepNo

/-- No step exists from a halted state: the outcome is the fault it records, after any number of steps (60_exceptions.md
R232). -/
def Obligations.HaltedStateIsFinal : Prop :=
  ∀ (s : State) (f : Fault), s.status = .halted f →
    step s = .fault f ∧ ∀ k, Host.Core.run Sys2Proof.core (k + 1) s = .fault f

/-- A step that faults changes only IR and the status, and records the PC and the word of the faulting instruction
(60_exceptions.md R233, derived by the spec; R234: it does not tick). `keys`, `env` and `stepNo` are the host's and the
model's. -/
def Obligations.FaultingStepIsPrecise : Prop :=
  ∀ (s t : State) (f : Fault), step s = .next t → t.status = .halted f →
    f.fpc = s.pc ∧ f.fword = s.nextWord ∧ t.ir = s.nextWord ∧
      Frame s t fun c => c = .ir ∨ c = .status ∨ c = .keys ∨ c = .env ∨ c = .stepNo

/-- The causes of the three faults, and no other step halts the engine (60_exceptions.md R231; the codes and the stack
faults are the spec's decisions D5 and D23). -/
def Obligations.FaultsHaveTheirCauses : Prop :=
  ∀ (s t : State) (f : Fault), step s = .next t → t.status = .halted f →
    (f = .decodeFailure s.pc s.nextWord ∧ f.code = 1 ∧ ∀ i, decode s.nextWord ≠ .ok i) ∨
    (f = .stackOverflow s.pc s.nextWord ∧ f.code = 2 ∧ (∃ nnn, decode s.nextWord = .ok (.call nnn)) ∧
      s.sp.toNat + 2 > s.params.stackLimit.toNat) ∨
    (f = .stackUnderflow s.pc s.nextWord ∧ f.code = 3 ∧ decode s.nextWord = .ok .ret ∧
      s.sp.toNat < s.params.stackBase.toNat + 2)

/-- A poll that sees no newly pressed key renews its sample and stays blocked; only the timers may tick (44_input_timers.md
R214; 60_exceptions.md R244; the meaning of a transition is the spec's decision D13). -/
def Obligations.PollWithoutNewKeyKeepsWaiting : Prop :=
  ∀ (s : State) (xw : Nibble) (prev : Keys), s.status = .waitingKey xw prev →
    (∀ k, ¬newlyPressed prev s.latched k) →
    ∃ t, step s = .next t ∧ t.status = .waitingKey xw s.latched ∧ t.keys = s.latched ∧
      Frame s t fun c => c = .status ∨ c = .keys ∨ c = .dt ∨ c = .st ∨ c = .env ∨ c = .stepNo

/-- A poll that sees a newly pressed key completes the wait with one of them, and each of them is the one taken for some
choice of the environment (44_input_timers.md R214; the spec's decisions D13 and D14; notes/assumptions/6.md). -/
def Obligations.PollWithNewKeyCompletes : Prop :=
  ∀ (s : State) (xw : Nibble) (prev : Keys) (k : Nibble), s.status = .waitingKey xw prev →
    newlyPressed prev s.latched k →
    (∃ t k', step s = .next t ∧ newlyPressed prev s.latched k' ∧ (t.getV xw).toNat = k'.toNat ∧ t.status = .running ∧
      Advances s t 2 ∧ t.keys = s.latched ∧
      Frame s t fun c => c = .status ∨ c = .pc ∨ c = .reg xw ∨ c = .keys ∨ c = .dt ∨ c = .st ∨ c = .env ∨ c = .stepNo) ∧
    ∃ pick t, step { s with env := { s.env with keyPick := pick } } = .next t ∧ (t.getV xw).toNat = k.toNat

/-- Every step that does not fault decrements each timer once if the tick is given, never below zero, after the handler
has acted; set-delay alone writes DT and set-sound alone writes ST (60_exceptions.md R238, R239). -/
def Obligations.TimersTickOncePerStep : Prop :=
  ∀ s u : State, step s = .next u →
    (u.faultFree = false → u.dt = s.dt ∧ u.st = s.st) ∧
    (u.faultFree = true →
      (∀ x, s.status = .running → decode s.nextWord = .ok (.setDelay x) →
        u.dt.toNat = (s.getV x).toNat - if s.env.tick then 1 else 0) ∧
      ((¬∃ x, s.status = .running ∧ decode s.nextWord = .ok (.setDelay x)) →
        u.dt.toNat = s.dt.toNat - if s.env.tick then 1 else 0) ∧
      (∀ x, s.status = .running → decode s.nextWord = .ok (.setSound x) →
        u.st.toNat = (s.getV x).toNat - if s.env.tick then 1 else 0) ∧
      ((¬∃ x, s.status = .running ∧ decode s.nextWord = .ok (.setSound x)) →
        u.st.toNat = s.st.toNat - if s.env.tick then 1 else 0))

/-- The core only reads the latch: after a step it holds what the host wrote, or what it held (10_state.md R34;
70_reset_and_hazards.md R267). -/
def Obligations.LatchChangesOnlyByHostWrite : Prop :=
  ∀ s t : State, step s = .next t → t.keys = s.latched

/-- No step changes STACK_BASE, STACK_LIMIT or FONT (10_state.md R37). -/
def Obligations.StepKeepsParameters : Prop :=
  ∀ s t : State, step s = .next t → t.params = s.params

/-- The framebuffer is changed only by clear-screen and draw-sprite (10_state.md R33). -/
def Obligations.FramebufferChangesOnlyByClearAndDraw : Prop :=
  ∀ (s t : State) (r c : Nat), step s = .next t → pixelAt t.fb r c ≠ pixelAt s.fb r c →
    s.status = .running ∧
      (decode s.nextWord = .ok .clearScreen ∨ ∃ x y n, decode s.nextWord = .ok (.drawSprite x y n))

/-! ### Invariant and reset -/

/-- Every step keeps the invariant: admissible parameters, PC in range, SP in the stack region at a whole number of
entries, memory canonical (10_state.md R38, R25, R27, as the spec derives them; the canonical form is the model's own,
notes/assumptions/11.md). -/
def Obligations.StepKeepsMachineInvariant : Prop :=
  ∀ s t : State, Inv s → step s = .next t → Inv t

/-- The reset state meets the invariant (10_state.md R38, R39; SP and its region are the model's choice,
notes/assumptions/1.md). -/
def Obligations.ResetMeetsMachineInvariant : Prop := Inv State.reset

/-- So does every machine the reset procedure builds, for every admissible stack region, FONT and ROM
(70_reset_and_hazards.md R260; 00_scope.md R7). -/
def Obligations.BootMeetsMachineInvariant : Prop :=
  ∀ (base limit : Word) (font rom : List Byte) (s : State), State.boot base limit font rom = .ok s → Inv s

/-- The reset value of every piece of state, for every admissible stack region, FONT and ROM (10_state.md R39). -/
def Obligations.BootGivesResetValues : Prop :=
  ∀ (base limit : Word) (font rom : List Byte) (s : State), State.boot base limit font rom = .ok s →
    (∀ x, s.getV x = 0x00) ∧ s.i = 0x0000 ∧ s.pc = 0x200 ∧ s.sp = base ∧ s.ir = 0x0000 ∧ s.dt = 0x00 ∧ s.st = 0x00 ∧
      (∀ r c, pixelAt s.fb r c = false) ∧ s.keys = 0x0000 ∧ s.status = .running ∧
      ∀ a < 0x1000, s.readByte a =
        if a < 0x50 then font.getD a 0x00 else if 0x200 ≤ a then rom.getD (a - 0x200) 0x00 else 0x00

/-- The reset procedure builds a machine exactly when the stack region is admissible, FONT has 80 bytes and the ROM at most
3584 (00_scope.md R7; 70_reset_and_hazards.md R261, R262; the limit is the spec's decision D18). -/
def Obligations.BootSucceedsExactlyOnGoodImages : Prop :=
  ∀ (base limit : Word) (font rom : List Byte),
    (∃ s, State.boot base limit font rom = .ok s) ↔
      0x050 ≤ base.toNat ∧ base.toNat + 2 ≤ limit.toNat ∧ limit.toNat ≤ 0x200 ∧ font.length = 80 ∧ rom.length ≤ 3584

/-! ### Whole-machine rules over the instructions -/

/-- Every instruction answers a next state and changes only what its rule names; only call on a full stack and return on an
empty one halt the engine (00_scope.md R11; 10_state.md R22; 20_memory.md R68; 60_exceptions.md R231). -/
def Obligations.EveryInstructionWritesOnlyItsTargets : Prop :=
  ∀ (i : Instr) (s : State), ∃ t, exec i s = .next t ∧ Frame s t (mayWrite s i) ∧
    (s.faultFree = true → t.faultFree = false →
      ((∃ nnn, i = .call nnn) ∧ s.sp.toNat + 2 > s.params.stackLimit.toNat) ∨
      (i = .ret ∧ s.sp.toNat < s.params.stackBase.toNat + 2))

/-- VF is 0 or 1 after draw-sprite, and after the flag-setting operations of family 0x8 when `x` is not 15 (10_state.md
R38, as the spec derives it; 90_conflicts.md C3). -/
def Obligations.FlagIsZeroOrOne : Prop :=
  (∀ (x y n : Nibble) (s t : State), exec (.drawSprite x y n) s = .next t → t.getV vf = 0 ∨ t.getV vf = 1) ∧
    ∀ (x y : Nibble) (i : Instr) (s t : State), x ≠ vf →
      i ∈ [Instr.addReg x y, .subReg x y, .subRegRev x y, .shiftRight x y, .shiftLeft x y] →
      exec i s = .next t → t.getV vf = 0 ∨ t.getV vf = 1

/-- A call and then a return come back to the word after the call with SP as it was, and only the two stack bytes and PC
differ (95_test_vectors.md L1-6; the byte order of the pop is the spec's decision D6). -/
def Obligations.CallThenReturnComesBack : Prop :=
  ∀ (nnn : Addr) (s : State), s.params.stackBase.toNat ≤ s.sp.toNat → s.sp.toNat + 2 ≤ s.params.stackLimit.toNat →
    ∃ t u, exec (.call nnn) s = .next t ∧ exec .ret t = .next u ∧ Advances s u 2 ∧ u.sp = s.sp ∧
      Frame s u fun c => c = .pc ∨ ∃ a, c = .byte a ∧ stored s.sp.toNat 2 a

/-- Drawing the same sprite twice at the same place restores the framebuffer, and the second draw reports a collision
exactly if the first turned some pixel on (43_display.md R195, as the spec derives it from R191 and R194). R195 says a set
sprite bit alone is enough; by R191 it is not when every covered pixel was set before the first draw:
notes/assumptions/19.md. -/
def Obligations.DrawTwiceRestoresFramebuffer : Prop :=
  ∀ (x y n : Nibble) (s t u : State), exec (.drawSprite x y n) s = .next t → t.getV x = s.getV x → t.getV y = s.getV y →
    exec (.drawSprite x y n) t = .next u →
    (∀ r c, pixelAt u.fb r c = pixelAt s.fb r c) ∧
      ((∃ r c, spriteCovers s x y n r c ∧ pixelAt s.fb r c = false) → u.getV vf = 1) ∧
      ((¬∃ r c, spriteCovers s x y n r c ∧ pixelAt s.fb r c = false) → u.getV vf = 0)

/-! ### Control flow -/

/-- legacy-call: one log event carrying nnn, PC + 2, nothing else (40_control_flow.md R130; what is logged is the spec's
decision D25; the log is kept in the model's state, notes/assumptions/12.md). -/
def Obligations.LegacyCallOnlyLogsAndAdvances : Prop :=
  ∀ nnn : Addr, (nnn.extractLsb' 0 8 ≠ 0xE0#8 → nnn.extractLsb' 0 8 ≠ 0xEE#8 →
      decode (0x0#4 ++ nnn) = .ok (.legacyCall nnn)) ∧
    ∀ s, ∃ t, exec (.legacyCall nnn) s = .next t ∧ t.log = nnn :: s.log ∧ Advances s t 2 ∧
      Frame s t fun c => c = .pc ∨ c = .log

/-- return on a stack that holds an entry: PC from the two bytes below SP, big-endian, and SP - 2; the bytes stay
(40_control_flow.md R131; the pop order is the spec's decision D6). -/
def Obligations.ReturnPopsTheReturnAddress : Prop :=
  (∀ hi : Nibble, decode (0x0#4 ++ hi ++ 0xEE#8) = .ok .ret) ∧
    ∀ s : State, s.params.stackBase.toNat + 2 ≤ s.sp.toNat →
      ∃ t, exec .ret s = .next t ∧ t.sp.toNat = s.sp.toNat - 2 ∧
        t.pc.toNat = ((s.readByte (s.sp.toNat - 2)).toNat * 256 + (s.readByte (s.sp.toNat - 1)).toNat) % 0x1000 ∧
        Frame s t fun c => c = .pc ∨ c = .sp

/-- return on an empty stack halts with StackUnderflow and changes nothing but the status (40_control_flow.md R131; the
fault is the spec's decision D5). -/
def Obligations.ReturnOnEmptyStackHalts : Prop :=
  ∀ s : State, s.sp.toNat < s.params.stackBase.toNat + 2 →
    ∃ t, exec .ret s = .next t ∧ t.status = .halted (.stackUnderflow s.pc s.ir) ∧ Frame s t fun c => c = .status

/-- jump (40_control_flow.md R132). -/
def Obligations.JumpSetsPC : Prop :=
  ∀ nnn : Addr, decode (0x1#4 ++ nnn) = .ok (.jump nnn) ∧
    ∀ s, ∃ t, exec (.jump nnn) s = .next t ∧ t.pc.toNat = nnn.toNat ∧ Frame s t fun c => c = .pc

/-- call on a stack with room: the wrapped return address big-endian at SP, SP + 2, PC = nnn (40_control_flow.md R133; the
stack bound is the spec's decisions D4 and D5). -/
def Obligations.CallPushesAndJumps : Prop :=
  ∀ nnn : Addr, decode (0x2#4 ++ nnn) = .ok (.call nnn) ∧
    ∀ s : State, s.sp.toNat + 2 ≤ s.params.stackLimit.toNat →
      ∃ t, exec (.call nnn) s = .next t ∧ t.pc.toNat = nnn.toNat ∧ t.sp.toNat = s.sp.toNat + 2 ∧
        (t.readByte s.sp.toNat).toNat = (s.pc.toNat + 2) % 0x1000 / 256 ∧
        (t.readByte (s.sp.toNat + 1)).toNat = (s.pc.toNat + 2) % 0x1000 % 256 ∧
        Frame s t fun c => c = .pc ∨ c = .sp ∨ ∃ a, c = .byte a ∧ stored s.sp.toNat 2 a

/-- call on a full stack halts with StackOverflow and changes nothing but the status (40_control_flow.md R133; the fault is
the spec's decision D5). -/
def Obligations.CallOnFullStackHalts : Prop :=
  ∀ (nnn : Addr) (s : State), s.sp.toNat + 2 > s.params.stackLimit.toNat →
    ∃ t, exec (.call nnn) s = .next t ∧ t.status = .halted (.stackOverflow s.pc s.ir) ∧ Frame s t fun c => c = .status

/-- skip-if-eq-imm and skip-if-ne-imm (40_control_flow.md R134, R135). -/
def Obligations.ImmediateSkips : Prop :=
  ∀ (x : Nibble) (nn : Byte),
    decode (0x3#4 ++ x ++ nn) = .ok (.skipIfEqImm x nn) ∧ decode (0x4#4 ++ x ++ nn) = .ok (.skipIfNeImm x nn) ∧
    ∀ s, (∃ t, exec (.skipIfEqImm x nn) s = .next t ∧ Advances s t (if s.getV x = nn then 4 else 2) ∧
        Frame s t fun c => c = .pc) ∧
      ∃ t, exec (.skipIfNeImm x nn) s = .next t ∧ Advances s t (if s.getV x ≠ nn then 4 else 2) ∧
        Frame s t fun c => c = .pc

/-- skip-if-eq-reg and skip-if-ne-reg, bits 3:0 ignored (40_control_flow.md R136, R137). -/
def Obligations.RegisterSkips : Prop :=
  ∀ x y n : Nibble,
    decode (0x5#4 ++ x ++ y ++ n) = .ok (.skipIfEqReg x y) ∧ decode (0x9#4 ++ x ++ y ++ n) = .ok (.skipIfNeReg x y) ∧
    ∀ s, (∃ t, exec (.skipIfEqReg x y) s = .next t ∧ Advances s t (if s.getV x = s.getV y then 4 else 2) ∧
        Frame s t fun c => c = .pc) ∧
      ∃ t, exec (.skipIfNeReg x y) s = .next t ∧ Advances s t (if s.getV x ≠ s.getV y then 4 else 2) ∧
        Frame s t fun c => c = .pc

/-- jump-offset: nnn + V0, reduced mod 0x1000 (40_control_flow.md R138). -/
def Obligations.JumpOffsetAddsV0 : Prop :=
  ∀ nnn : Addr, decode (0xB#4 ++ nnn) = .ok (.jumpOffset nnn) ∧
    ∀ s, ∃ t, exec (.jumpOffset nnn) s = .next t ∧ t.pc.toNat = (nnn.toNat + (s.getV 0x0).toNat) % 0x1000 ∧
      Frame s t fun c => c = .pc

/-! ### Register arithmetic and logic -/

/-- move-imm (41_alu.md R150). -/
def Obligations.MoveImmLoadsImmediate : Prop :=
  ∀ (x : Nibble) (nn : Byte), decode (0x6#4 ++ x ++ nn) = .ok (.moveImm x nn) ∧
    ∀ s, ∃ t, exec (.moveImm x nn) s = .next t ∧ t.getV x = nn ∧ Advances s t 2 ∧
      Frame s t fun c => c = .pc ∨ c = .reg x

/-- add-imm: no flag, so VF is kept unless it is the destination (41_alu.md R151). -/
def Obligations.AddImmWrapsWithoutFlag : Prop :=
  ∀ (x : Nibble) (nn : Byte), decode (0x7#4 ++ x ++ nn) = .ok (.addImm x nn) ∧
    ∀ s, ∃ t, exec (.addImm x nn) s = .next t ∧ (t.getV x).toNat = ((s.getV x).toNat + nn.toNat) % 256 ∧
      Advances s t 2 ∧ Frame s t fun c => c = .pc ∨ c = .reg x

/-- move-reg (41_alu.md R152). -/
def Obligations.MoveRegCopies : Prop :=
  ∀ x y : Nibble, decode (0x8#4 ++ x ++ y ++ 0x0#4) = .ok (.moveReg x y) ∧
    ∀ s, ∃ t, exec (.moveReg x y) s = .next t ∧ t.getV x = s.getV y ∧ Advances s t 2 ∧
      Frame s t fun c => c = .pc ∨ c = .reg x

/-- or, and, xor, bit by bit; VF is not reset (41_alu.md R153, R154, R155). -/
def Obligations.BitwiseLogicKeepsFlag : Prop :=
  ∀ x y : Nibble,
    decode (0x8#4 ++ x ++ y ++ 0x1#4) = .ok (.orReg x y) ∧ decode (0x8#4 ++ x ++ y ++ 0x2#4) = .ok (.andReg x y) ∧
    decode (0x8#4 ++ x ++ y ++ 0x3#4) = .ok (.xorReg x y) ∧
    ∀ s, (∃ t, exec (.orReg x y) s = .next t ∧
        (∀ k, (t.getV x).getLsbD k = ((s.getV x).getLsbD k || (s.getV y).getLsbD k)) ∧ Advances s t 2 ∧
        Frame s t fun c => c = .pc ∨ c = .reg x) ∧
      (∃ t, exec (.andReg x y) s = .next t ∧
        (∀ k, (t.getV x).getLsbD k = ((s.getV x).getLsbD k && (s.getV y).getLsbD k)) ∧ Advances s t 2 ∧
        Frame s t fun c => c = .pc ∨ c = .reg x) ∧
      ∃ t, exec (.xorReg x y) s = .next t ∧
        (∀ k, (t.getV x).getLsbD k = ((s.getV x).getLsbD k ^^ (s.getV y).getLsbD k)) ∧ Advances s t 2 ∧
        Frame s t fun c => c = .pc ∨ c = .reg x

/-- add-reg: VF is the carry, written first; the operands of the sum are read after it, so VF as an operand is the new carry
(41_alu.md R156). -/
def Obligations.AddRegWritesCarryThenSum : Prop :=
  ∀ x y : Nibble, decode (0x8#4 ++ x ++ y ++ 0x4#4) = .ok (.addReg x y) ∧
    ∀ s : State, ∃ (t : State) (f : Byte), exec (.addReg x y) s = .next t ∧
      f = (if (s.getV x).toNat + (s.getV y).toNat > 255 then 1 else 0) ∧ (x ≠ vf → t.getV vf = f) ∧
      (t.getV x).toNat =
        ((if x = vf then f else s.getV x).toNat + (if y = vf then f else s.getV y).toNat) % 256 ∧
      Advances s t 2 ∧ Frame s t fun c => c = .pc ∨ c = .reg x ∨ c = .reg vf

/-- sub-reg: VF is not-borrow, written first; the operands are read after it (41_alu.md R157). -/
def Obligations.SubRegWritesNotBorrowThenDifference : Prop :=
  ∀ x y : Nibble, decode (0x8#4 ++ x ++ y ++ 0x5#4) = .ok (.subReg x y) ∧
    ∀ s : State, ∃ (t : State) (f : Byte), exec (.subReg x y) s = .next t ∧
      f = (if (s.getV x).toNat < (s.getV y).toNat then 0 else 1) ∧ (x ≠ vf → t.getV vf = f) ∧
      (t.getV x).toNat =
        (256 + (if x = vf then f else s.getV x).toNat - (if y = vf then f else s.getV y).toNat) % 256 ∧
      Advances s t 2 ∧ Frame s t fun c => c = .pc ∨ c = .reg x ∨ c = .reg vf

/-- sub-reg-rev: VF is the not-borrow of V[y] - V[x], written first; the operands are read after it (41_alu.md R159). -/
def Obligations.SubRegRevWritesNotBorrowThenDifference : Prop :=
  ∀ x y : Nibble, decode (0x8#4 ++ x ++ y ++ 0x7#4) = .ok (.subRegRev x y) ∧
    ∀ s : State, ∃ (t : State) (f : Byte), exec (.subRegRev x y) s = .next t ∧
      f = (if (s.getV y).toNat < (s.getV x).toNat then 0 else 1) ∧ (x ≠ vf → t.getV vf = f) ∧
      (t.getV x).toNat =
        (256 + (if y = vf then f else s.getV y).toNat - (if x = vf then f else s.getV x).toNat) % 256 ∧
      Advances s t 2 ∧ Frame s t fun c => c = .pc ∨ c = .reg x ∨ c = .reg vf

/-- shift-right: VF is the old bit 0, written first; V[x] is read after it; y has no effect (41_alu.md R158). -/
def Obligations.ShiftRightWritesLowBitThenHalf : Prop :=
  ∀ x y : Nibble, decode (0x8#4 ++ x ++ y ++ 0x6#4) = .ok (.shiftRight x y) ∧
    ∀ s : State, ∃ (t : State) (f : Byte), exec (.shiftRight x y) s = .next t ∧
      f.toNat = (s.getV x).toNat % 2 ∧ (x ≠ vf → t.getV vf = f) ∧
      (t.getV x).toNat = (if x = vf then f else s.getV x).toNat / 2 ∧
      Advances s t 2 ∧ Frame s t fun c => c = .pc ∨ c = .reg x ∨ c = .reg vf

/-- shift-left: VF is the old bit 7, written first; V[x] is read after it; y has no effect (41_alu.md R160). -/
def Obligations.ShiftLeftWritesHighBitThenDouble : Prop :=
  ∀ x y : Nibble, decode (0x8#4 ++ x ++ y ++ 0xE#4) = .ok (.shiftLeft x y) ∧
    ∀ s : State, ∃ (t : State) (f : Byte), exec (.shiftLeft x y) s = .next t ∧
      f = (if (s.getV x).getLsbD 7 then 1 else 0) ∧ (x ≠ vf → t.getV vf = f) ∧
      (t.getV x).toNat = (if x = vf then f else s.getV x).toNat * 2 % 256 ∧
      Advances s t 2 ∧ Frame s t fun c => c = .pc ∨ c = .reg x ∨ c = .reg vf

/-- rand-mask: the byte the environment presents to this step, whatever it is, AND nn (41_alu.md R161; that the byte is a
free input is the spec's decision D16; notes/assumptions/4.md). -/
def Obligations.RandMaskMasksTheInputByte : Prop :=
  ∀ (x : Nibble) (nn : Byte), decode (0xC#4 ++ x ++ nn) = .ok (.randMask x nn) ∧
    ∀ s, ∃ t, exec (.randMask x nn) s = .next t ∧
      (∀ k, (t.getV x).getLsbD k = (s.env.rand.getLsbD k && nn.getLsbD k)) ∧ Advances s t 2 ∧
      Frame s t fun c => c = .pc ∨ c = .reg x

/-! ### Index register and memory -/

/-- set-index (42_index_memory.md R170). -/
def Obligations.SetIndexLoadsAddress : Prop :=
  ∀ nnn : Addr, decode (0xA#4 ++ nnn) = .ok (.setIndex nnn) ∧
    ∀ s, ∃ t, exec (.setIndex nnn) s = .next t ∧ t.i.toNat = nnn.toNat ∧ Advances s t 2 ∧
      Frame s t fun c => c = .pc ∨ c = .index

/-- index-add: the register's value, the sum mod 0x10000, VF unchanged (42_index_memory.md R171; the operand and the width
are the spec's decisions D8 and D9). -/
def Obligations.IndexAddAddsRegisterValue : Prop :=
  ∀ x : Nibble, decode (0xF#4 ++ x ++ 0x1E#8) = .ok (.indexAdd x) ∧
    ∀ s, ∃ t, exec (.indexAdd x) s = .next t ∧ t.i.toNat = (s.i.toNat + (s.getV x).toNat) % 0x10000 ∧ Advances s t 2 ∧
      Frame s t fun c => c = .pc ∨ c = .index

/-- index-set-sprite: the whole byte times 5 (42_index_memory.md R172). -/
def Obligations.IndexSetSpritePointsAtGlyph : Prop :=
  ∀ x : Nibble, decode (0xF#4 ++ x ++ 0x29#8) = .ok (.indexSetSprite x) ∧
    ∀ s, ∃ t, exec (.indexSetSprite x) s = .next t ∧ t.i.toNat = (s.getV x).toNat * 5 ∧ Advances s t 2 ∧
      Frame s t fun c => c = .pc ∨ c = .index

/-- store-bcd: the three decimal digits at I, I + 1, I + 2, each address wrapping (42_index_memory.md R173). -/
def Obligations.StoreBcdWritesDecimalDigits : Prop :=
  ∀ x : Nibble, decode (0xF#4 ++ x ++ 0x33#8) = .ok (.storeBcd x) ∧
    ∀ s, ∃ t, exec (.storeBcd x) s = .next t ∧
      (t.readByte (s.i.toNat + 0)).toNat = (s.getV x).toNat / 100 ∧
      (t.readByte (s.i.toNat + 1)).toNat = (s.getV x).toNat / 10 % 10 ∧
      (t.readByte (s.i.toNat + 2)).toNat = (s.getV x).toNat % 10 ∧ Advances s t 2 ∧
      Frame s t fun c => c = .pc ∨ ∃ a, c = .byte a ∧ stored s.i.toNat 3 a

/-- register-dump: V0 to V[x] at I on, I unchanged (42_index_memory.md R174; that I is unchanged is the spec's decision
D19). -/
def Obligations.RegisterDumpStoresRegisters : Prop :=
  ∀ x : Nibble, decode (0xF#4 ++ x ++ 0x55#8) = .ok (.registerDump x) ∧
    ∀ s, ∃ t, exec (.registerDump x) s = .next t ∧
      (∀ k : Nibble, k.toNat ≤ x.toNat → t.readByte (s.i.toNat + k.toNat) = s.getV k) ∧ Advances s t 2 ∧
      Frame s t fun c => c = .pc ∨ ∃ a, c = .byte a ∧ stored s.i.toNat (x.toNat + 1) a

/-- register-load: V0 to V[x] from I on, I unchanged (42_index_memory.md R175; that I is unchanged is the spec's decision
D19). -/
def Obligations.RegisterLoadFillsRegisters : Prop :=
  ∀ x : Nibble, decode (0xF#4 ++ x ++ 0x65#8) = .ok (.registerLoad x) ∧
    ∀ s, ∃ t, exec (.registerLoad x) s = .next t ∧
      (∀ k : Nibble, k.toNat ≤ x.toNat → t.getV k = s.readByte (s.i.toNat + k.toNat)) ∧ Advances s t 2 ∧
      Frame s t fun c => c = .pc ∨ ∃ k : Nibble, c = .reg k ∧ k.toNat ≤ x.toNat

/-! ### Display -/

/-- clear-screen: every pixel false, bits 11:8 of the word ignored (43_display.md R190). -/
def Obligations.ClearScreenClearsEveryPixel : Prop :=
  (∀ hi : Nibble, decode (0x0#4 ++ hi ++ 0xE0#8) = .ok .clearScreen) ∧
    ∀ s, ∃ t, exec .clearScreen s = .next t ∧ (∀ r c, pixelAt t.fb r c = false) ∧ Advances s t 2 ∧
      Frame s t fun c => c = .pc ∨ ∃ r k, c = .pixel r k

/-- draw-sprite: the pixels the sprite covers flip, the others stay, and VF is 1 exactly if a covered pixel was set
(43_display.md R191, R192, R194; the coordinate roles and the wrap of R193 are the spec's decisions D10 and D11). -/
def Obligations.DrawSpriteXorsAndReportsCollision : Prop :=
  ∀ x y n : Nibble, decode (0xD#4 ++ x ++ y ++ n) = .ok (.drawSprite x y n) ∧
    ∀ s, ∃ t, exec (.drawSprite x y n) s = .next t ∧
      (∀ r c, spriteCovers s x y n r c → pixelAt t.fb r c = !pixelAt s.fb r c) ∧
      (∀ r c, ¬spriteCovers s x y n r c → pixelAt t.fb r c = pixelAt s.fb r c) ∧
      ((∃ r c, spriteCovers s x y n r c ∧ pixelAt s.fb r c = true) → t.getV vf = 1) ∧
      ((¬∃ r c, spriteCovers s x y n r c ∧ pixelAt s.fb r c = true) → t.getV vf = 0) ∧ Advances s t 2 ∧
      Frame s t fun c => c = .pc ∨ c = .reg vf ∨ ∃ r k, c = .pixel r k

/-! ### Input and timers -/

/-- skip-if-key and skip-if-not-key read latch bit V[x] mod 16 (44_input_timers.md R210, R211; the reduction of R212 is the
spec's decision D12). -/
def Obligations.KeySkipsReadTheLatch : Prop :=
  ∀ x : Nibble,
    decode (0xE#4 ++ x ++ 0x9E#8) = .ok (.skipIfKey x) ∧ decode (0xE#4 ++ x ++ 0xA1#8) = .ok (.skipIfNotKey x) ∧
    ∀ s, (∃ t, exec (.skipIfKey x) s = .next t ∧
        Advances s t (if s.keys.getLsbD ((s.getV x).toNat % 16) = true then 4 else 2) ∧ Frame s t fun c => c = .pc) ∧
      ∃ t, exec (.skipIfNotKey x) s = .next t ∧
        Advances s t (if s.keys.getLsbD ((s.getV x).toNat % 16) = true then 2 else 4) ∧ Frame s t fun c => c = .pc

/-- wait-key: the latch is sampled and the engine waits; PC and V[x] are not written (44_input_timers.md R213; the spec's
decision D13). -/
def Obligations.WaitKeySamplesAndBlocks : Prop :=
  ∀ x : Nibble, decode (0xF#4 ++ x ++ 0x0A#8) = .ok (.waitKey x) ∧
    ∀ s, ∃ t, exec (.waitKey x) s = .next t ∧ t.status = .waitingKey x s.keys ∧ Frame s t fun c => c = .status

/-- read-delay; a tick in the same step follows the handler, so the register takes DT as it was before the step
(44_input_timers.md R215). -/
def Obligations.ReadDelayCopiesTimer : Prop :=
  ∀ x : Nibble, decode (0xF#4 ++ x ++ 0x07#8) = .ok (.readDelay x) ∧
    (∀ s, ∃ t, exec (.readDelay x) s = .next t ∧ t.getV x = s.dt ∧ Advances s t 2 ∧
      Frame s t fun c => c = .pc ∨ c = .reg x) ∧
    ∀ s u : State, s.status = .running → step s = .next u → decode s.nextWord = .ok (.readDelay x) → u.getV x = s.dt

/-- set-delay and set-sound; a tick in the same step follows the handler and so decrements the new value (44_input_timers.md
R216, R217). -/
def Obligations.SetTimersLoadTheRegister : Prop :=
  ∀ x : Nibble,
    decode (0xF#4 ++ x ++ 0x15#8) = .ok (.setDelay x) ∧ decode (0xF#4 ++ x ++ 0x18#8) = .ok (.setSound x) ∧
    (∀ s, (∃ t, exec (.setDelay x) s = .next t ∧ t.dt = s.getV x ∧ Advances s t 2 ∧
        Frame s t fun c => c = .pc ∨ c = .dt) ∧
      ∃ t, exec (.setSound x) s = .next t ∧ t.st = s.getV x ∧ Advances s t 2 ∧
        Frame s t fun c => c = .pc ∨ c = .st) ∧
    ∀ s u : State, s.status = .running → step s = .next u →
      (decode s.nextWord = .ok (.setDelay x) → u.dt.toNat = (s.getV x).toNat - if s.env.tick then 1 else 0) ∧
      (decode s.nextWord = .ok (.setSound x) → u.st.toNat = (s.getV x).toNat - if s.env.tick then 1 else 0)
end

