-- ==== Sys2Proof/Laws/State.lean ====
section
/-! SUPPORT. One lemma per field per named update of the state, so that no later proof unfolds a record update. -/

namespace Sys2Proof.Machine

variable (s : State)

@[simp] theorem State.setV_i (x : Nibble) (b : Byte) : (s.setV x b).i = s.i := rfl
@[simp] theorem State.setV_pc (x : Nibble) (b : Byte) : (s.setV x b).pc = s.pc := rfl
@[simp] theorem State.setV_sp (x : Nibble) (b : Byte) : (s.setV x b).sp = s.sp := rfl
@[simp] theorem State.setV_ir (x : Nibble) (b : Byte) : (s.setV x b).ir = s.ir := rfl
@[simp] theorem State.setV_dt (x : Nibble) (b : Byte) : (s.setV x b).dt = s.dt := rfl
@[simp] theorem State.setV_st (x : Nibble) (b : Byte) : (s.setV x b).st = s.st := rfl
@[simp] theorem State.setV_fb (x : Nibble) (b : Byte) : (s.setV x b).fb = s.fb := rfl
@[simp] theorem State.setV_keys (x : Nibble) (b : Byte) : (s.setV x b).keys = s.keys := rfl
@[simp] theorem State.setV_mem (x : Nibble) (b : Byte) : (s.setV x b).mem = s.mem := rfl
@[simp] theorem State.setV_status (x : Nibble) (b : Byte) : (s.setV x b).status = s.status := rfl
@[simp] theorem State.setV_log (x : Nibble) (b : Byte) : (s.setV x b).log = s.log := rfl
@[simp] theorem State.setV_params (x : Nibble) (b : Byte) : (s.setV x b).params = s.params := rfl
@[simp] theorem State.setV_env (x : Nibble) (b : Byte) : (s.setV x b).env = s.env := rfl
@[simp] theorem State.setV_stepNo (x : Nibble) (b : Byte) : (s.setV x b).stepNo = s.stepNo := rfl

@[simp] theorem State.setI_v (w : Word) : (s.setI w).v = s.v := rfl
@[simp] theorem State.setI_i (w : Word) : (s.setI w).i = w := rfl
@[simp] theorem State.setI_pc (w : Word) : (s.setI w).pc = s.pc := rfl
@[simp] theorem State.setI_sp (w : Word) : (s.setI w).sp = s.sp := rfl
@[simp] theorem State.setI_ir (w : Word) : (s.setI w).ir = s.ir := rfl
@[simp] theorem State.setI_dt (w : Word) : (s.setI w).dt = s.dt := rfl
@[simp] theorem State.setI_st (w : Word) : (s.setI w).st = s.st := rfl
@[simp] theorem State.setI_fb (w : Word) : (s.setI w).fb = s.fb := rfl
@[simp] theorem State.setI_keys (w : Word) : (s.setI w).keys = s.keys := rfl
@[simp] theorem State.setI_mem (w : Word) : (s.setI w).mem = s.mem := rfl
@[simp] theorem State.setI_status (w : Word) : (s.setI w).status = s.status := rfl
@[simp] theorem State.setI_log (w : Word) : (s.setI w).log = s.log := rfl
@[simp] theorem State.setI_params (w : Word) : (s.setI w).params = s.params := rfl
@[simp] theorem State.setI_env (w : Word) : (s.setI w).env = s.env := rfl
@[simp] theorem State.setI_stepNo (w : Word) : (s.setI w).stepNo = s.stepNo := rfl

@[simp] theorem State.setPC_v (n : Nat) : (s.setPC n).v = s.v := rfl
@[simp] theorem State.setPC_i (n : Nat) : (s.setPC n).i = s.i := rfl
@[simp] theorem State.setPC_pc (n : Nat) : (s.setPC n).pc = BitVec.ofNat 16 (n % 0x1000) := rfl
@[simp] theorem State.setPC_sp (n : Nat) : (s.setPC n).sp = s.sp := rfl
@[simp] theorem State.setPC_ir (n : Nat) : (s.setPC n).ir = s.ir := rfl
@[simp] theorem State.setPC_dt (n : Nat) : (s.setPC n).dt = s.dt := rfl
@[simp] theorem State.setPC_st (n : Nat) : (s.setPC n).st = s.st := rfl
@[simp] theorem State.setPC_fb (n : Nat) : (s.setPC n).fb = s.fb := rfl
@[simp] theorem State.setPC_keys (n : Nat) : (s.setPC n).keys = s.keys := rfl
@[simp] theorem State.setPC_mem (n : Nat) : (s.setPC n).mem = s.mem := rfl
@[simp] theorem State.setPC_status (n : Nat) : (s.setPC n).status = s.status := rfl
@[simp] theorem State.setPC_log (n : Nat) : (s.setPC n).log = s.log := rfl
@[simp] theorem State.setPC_params (n : Nat) : (s.setPC n).params = s.params := rfl
@[simp] theorem State.setPC_env (n : Nat) : (s.setPC n).env = s.env := rfl
@[simp] theorem State.setPC_stepNo (n : Nat) : (s.setPC n).stepNo = s.stepNo := rfl

@[simp] theorem State.setSP_v (w : Word) : (s.setSP w).v = s.v := rfl
@[simp] theorem State.setSP_i (w : Word) : (s.setSP w).i = s.i := rfl
@[simp] theorem State.setSP_pc (w : Word) : (s.setSP w).pc = s.pc := rfl
@[simp] theorem State.setSP_sp (w : Word) : (s.setSP w).sp = w := rfl
@[simp] theorem State.setSP_ir (w : Word) : (s.setSP w).ir = s.ir := rfl
@[simp] theorem State.setSP_dt (w : Word) : (s.setSP w).dt = s.dt := rfl
@[simp] theorem State.setSP_st (w : Word) : (s.setSP w).st = s.st := rfl
@[simp] theorem State.setSP_fb (w : Word) : (s.setSP w).fb = s.fb := rfl
@[simp] theorem State.setSP_keys (w : Word) : (s.setSP w).keys = s.keys := rfl
@[simp] theorem State.setSP_mem (w : Word) : (s.setSP w).mem = s.mem := rfl
@[simp] theorem State.setSP_status (w : Word) : (s.setSP w).status = s.status := rfl
@[simp] theorem State.setSP_log (w : Word) : (s.setSP w).log = s.log := rfl
@[simp] theorem State.setSP_params (w : Word) : (s.setSP w).params = s.params := rfl
@[simp] theorem State.setSP_env (w : Word) : (s.setSP w).env = s.env := rfl
@[simp] theorem State.setSP_stepNo (w : Word) : (s.setSP w).stepNo = s.stepNo := rfl

@[simp] theorem State.setIR_v (w : Word) : (s.setIR w).v = s.v := rfl
@[simp] theorem State.setIR_i (w : Word) : (s.setIR w).i = s.i := rfl
@[simp] theorem State.setIR_pc (w : Word) : (s.setIR w).pc = s.pc := rfl
@[simp] theorem State.setIR_sp (w : Word) : (s.setIR w).sp = s.sp := rfl
@[simp] theorem State.setIR_ir (w : Word) : (s.setIR w).ir = w := rfl
@[simp] theorem State.setIR_dt (w : Word) : (s.setIR w).dt = s.dt := rfl
@[simp] theorem State.setIR_st (w : Word) : (s.setIR w).st = s.st := rfl
@[simp] theorem State.setIR_fb (w : Word) : (s.setIR w).fb = s.fb := rfl
@[simp] theorem State.setIR_keys (w : Word) : (s.setIR w).keys = s.keys := rfl
@[simp] theorem State.setIR_mem (w : Word) : (s.setIR w).mem = s.mem := rfl
@[simp] theorem State.setIR_status (w : Word) : (s.setIR w).status = s.status := rfl
@[simp] theorem State.setIR_log (w : Word) : (s.setIR w).log = s.log := rfl
@[simp] theorem State.setIR_params (w : Word) : (s.setIR w).params = s.params := rfl
@[simp] theorem State.setIR_env (w : Word) : (s.setIR w).env = s.env := rfl
@[simp] theorem State.setIR_stepNo (w : Word) : (s.setIR w).stepNo = s.stepNo := rfl

@[simp] theorem State.setDT_v (b : Byte) : (s.setDT b).v = s.v := rfl
@[simp] theorem State.setDT_i (b : Byte) : (s.setDT b).i = s.i := rfl
@[simp] theorem State.setDT_pc (b : Byte) : (s.setDT b).pc = s.pc := rfl
@[simp] theorem State.setDT_sp (b : Byte) : (s.setDT b).sp = s.sp := rfl
@[simp] theorem State.setDT_ir (b : Byte) : (s.setDT b).ir = s.ir := rfl
@[simp] theorem State.setDT_dt (b : Byte) : (s.setDT b).dt = b := rfl
@[simp] theorem State.setDT_st (b : Byte) : (s.setDT b).st = s.st := rfl
@[simp] theorem State.setDT_fb (b : Byte) : (s.setDT b).fb = s.fb := rfl
@[simp] theorem State.setDT_keys (b : Byte) : (s.setDT b).keys = s.keys := rfl
@[simp] theorem State.setDT_mem (b : Byte) : (s.setDT b).mem = s.mem := rfl
@[simp] theorem State.setDT_status (b : Byte) : (s.setDT b).status = s.status := rfl
@[simp] theorem State.setDT_log (b : Byte) : (s.setDT b).log = s.log := rfl
@[simp] theorem State.setDT_params (b : Byte) : (s.setDT b).params = s.params := rfl
@[simp] theorem State.setDT_env (b : Byte) : (s.setDT b).env = s.env := rfl
@[simp] theorem State.setDT_stepNo (b : Byte) : (s.setDT b).stepNo = s.stepNo := rfl

@[simp] theorem State.setST_v (b : Byte) : (s.setST b).v = s.v := rfl
@[simp] theorem State.setST_i (b : Byte) : (s.setST b).i = s.i := rfl
@[simp] theorem State.setST_pc (b : Byte) : (s.setST b).pc = s.pc := rfl
@[simp] theorem State.setST_sp (b : Byte) : (s.setST b).sp = s.sp := rfl
@[simp] theorem State.setST_ir (b : Byte) : (s.setST b).ir = s.ir := rfl
@[simp] theorem State.setST_dt (b : Byte) : (s.setST b).dt = s.dt := rfl
@[simp] theorem State.setST_st (b : Byte) : (s.setST b).st = b := rfl
@[simp] theorem State.setST_fb (b : Byte) : (s.setST b).fb = s.fb := rfl
@[simp] theorem State.setST_keys (b : Byte) : (s.setST b).keys = s.keys := rfl
@[simp] theorem State.setST_mem (b : Byte) : (s.setST b).mem = s.mem := rfl
@[simp] theorem State.setST_status (b : Byte) : (s.setST b).status = s.status := rfl
@[simp] theorem State.setST_log (b : Byte) : (s.setST b).log = s.log := rfl
@[simp] theorem State.setST_params (b : Byte) : (s.setST b).params = s.params := rfl
@[simp] theorem State.setST_env (b : Byte) : (s.setST b).env = s.env := rfl
@[simp] theorem State.setST_stepNo (b : Byte) : (s.setST b).stepNo = s.stepNo := rfl

@[simp] theorem State.setFB_v (f : Framebuffer) : (s.setFB f).v = s.v := rfl
@[simp] theorem State.setFB_i (f : Framebuffer) : (s.setFB f).i = s.i := rfl
@[simp] theorem State.setFB_pc (f : Framebuffer) : (s.setFB f).pc = s.pc := rfl
@[simp] theorem State.setFB_sp (f : Framebuffer) : (s.setFB f).sp = s.sp := rfl
@[simp] theorem State.setFB_ir (f : Framebuffer) : (s.setFB f).ir = s.ir := rfl
@[simp] theorem State.setFB_dt (f : Framebuffer) : (s.setFB f).dt = s.dt := rfl
@[simp] theorem State.setFB_st (f : Framebuffer) : (s.setFB f).st = s.st := rfl
@[simp] theorem State.setFB_fb (f : Framebuffer) : (s.setFB f).fb = f := rfl
@[simp] theorem State.setFB_keys (f : Framebuffer) : (s.setFB f).keys = s.keys := rfl
@[simp] theorem State.setFB_mem (f : Framebuffer) : (s.setFB f).mem = s.mem := rfl
@[simp] theorem State.setFB_status (f : Framebuffer) : (s.setFB f).status = s.status := rfl
@[simp] theorem State.setFB_log (f : Framebuffer) : (s.setFB f).log = s.log := rfl
@[simp] theorem State.setFB_params (f : Framebuffer) : (s.setFB f).params = s.params := rfl
@[simp] theorem State.setFB_env (f : Framebuffer) : (s.setFB f).env = s.env := rfl
@[simp] theorem State.setFB_stepNo (f : Framebuffer) : (s.setFB f).stepNo = s.stepNo := rfl

@[simp] theorem State.setKeys_v (k : Keys) : (s.setKeys k).v = s.v := rfl
@[simp] theorem State.setKeys_i (k : Keys) : (s.setKeys k).i = s.i := rfl
@[simp] theorem State.setKeys_pc (k : Keys) : (s.setKeys k).pc = s.pc := rfl
@[simp] theorem State.setKeys_sp (k : Keys) : (s.setKeys k).sp = s.sp := rfl
@[simp] theorem State.setKeys_ir (k : Keys) : (s.setKeys k).ir = s.ir := rfl
@[simp] theorem State.setKeys_dt (k : Keys) : (s.setKeys k).dt = s.dt := rfl
@[simp] theorem State.setKeys_st (k : Keys) : (s.setKeys k).st = s.st := rfl
@[simp] theorem State.setKeys_fb (k : Keys) : (s.setKeys k).fb = s.fb := rfl
@[simp] theorem State.setKeys_keys (k : Keys) : (s.setKeys k).keys = k := rfl
@[simp] theorem State.setKeys_mem (k : Keys) : (s.setKeys k).mem = s.mem := rfl
@[simp] theorem State.setKeys_status (k : Keys) : (s.setKeys k).status = s.status := rfl
@[simp] theorem State.setKeys_log (k : Keys) : (s.setKeys k).log = s.log := rfl
@[simp] theorem State.setKeys_params (k : Keys) : (s.setKeys k).params = s.params := rfl
@[simp] theorem State.setKeys_env (k : Keys) : (s.setKeys k).env = s.env := rfl
@[simp] theorem State.setKeys_stepNo (k : Keys) : (s.setKeys k).stepNo = s.stepNo := rfl

@[simp] theorem State.setStatus_v (q : Status) : (s.setStatus q).v = s.v := rfl
@[simp] theorem State.setStatus_i (q : Status) : (s.setStatus q).i = s.i := rfl
@[simp] theorem State.setStatus_pc (q : Status) : (s.setStatus q).pc = s.pc := rfl
@[simp] theorem State.setStatus_sp (q : Status) : (s.setStatus q).sp = s.sp := rfl
@[simp] theorem State.setStatus_ir (q : Status) : (s.setStatus q).ir = s.ir := rfl
@[simp] theorem State.setStatus_dt (q : Status) : (s.setStatus q).dt = s.dt := rfl
@[simp] theorem State.setStatus_st (q : Status) : (s.setStatus q).st = s.st := rfl
@[simp] theorem State.setStatus_fb (q : Status) : (s.setStatus q).fb = s.fb := rfl
@[simp] theorem State.setStatus_keys (q : Status) : (s.setStatus q).keys = s.keys := rfl
@[simp] theorem State.setStatus_mem (q : Status) : (s.setStatus q).mem = s.mem := rfl
@[simp] theorem State.setStatus_status (q : Status) : (s.setStatus q).status = q := rfl
@[simp] theorem State.setStatus_log (q : Status) : (s.setStatus q).log = s.log := rfl
@[simp] theorem State.setStatus_params (q : Status) : (s.setStatus q).params = s.params := rfl
@[simp] theorem State.setStatus_env (q : Status) : (s.setStatus q).env = s.env := rfl
@[simp] theorem State.setStatus_stepNo (q : Status) : (s.setStatus q).stepNo = s.stepNo := rfl

@[simp] theorem State.emitLog_v (a : Addr) : (s.emitLog a).v = s.v := rfl
@[simp] theorem State.emitLog_i (a : Addr) : (s.emitLog a).i = s.i := rfl
@[simp] theorem State.emitLog_pc (a : Addr) : (s.emitLog a).pc = s.pc := rfl
@[simp] theorem State.emitLog_sp (a : Addr) : (s.emitLog a).sp = s.sp := rfl
@[simp] theorem State.emitLog_ir (a : Addr) : (s.emitLog a).ir = s.ir := rfl
@[simp] theorem State.emitLog_dt (a : Addr) : (s.emitLog a).dt = s.dt := rfl
@[simp] theorem State.emitLog_st (a : Addr) : (s.emitLog a).st = s.st := rfl
@[simp] theorem State.emitLog_fb (a : Addr) : (s.emitLog a).fb = s.fb := rfl
@[simp] theorem State.emitLog_keys (a : Addr) : (s.emitLog a).keys = s.keys := rfl
@[simp] theorem State.emitLog_mem (a : Addr) : (s.emitLog a).mem = s.mem := rfl
@[simp] theorem State.emitLog_status (a : Addr) : (s.emitLog a).status = s.status := rfl
@[simp] theorem State.emitLog_log (a : Addr) : (s.emitLog a).log = a :: s.log := rfl
@[simp] theorem State.emitLog_params (a : Addr) : (s.emitLog a).params = s.params := rfl
@[simp] theorem State.emitLog_env (a : Addr) : (s.emitLog a).env = s.env := rfl
@[simp] theorem State.emitLog_stepNo (a : Addr) : (s.emitLog a).stepNo = s.stepNo := rfl

@[simp] theorem State.writeByte_v (a : Nat) (b : Byte) : (s.writeByte a b).v = s.v := rfl
@[simp] theorem State.writeByte_i (a : Nat) (b : Byte) : (s.writeByte a b).i = s.i := rfl
@[simp] theorem State.writeByte_pc (a : Nat) (b : Byte) : (s.writeByte a b).pc = s.pc := rfl
@[simp] theorem State.writeByte_sp (a : Nat) (b : Byte) : (s.writeByte a b).sp = s.sp := rfl
@[simp] theorem State.writeByte_ir (a : Nat) (b : Byte) : (s.writeByte a b).ir = s.ir := rfl
@[simp] theorem State.writeByte_dt (a : Nat) (b : Byte) : (s.writeByte a b).dt = s.dt := rfl
@[simp] theorem State.writeByte_st (a : Nat) (b : Byte) : (s.writeByte a b).st = s.st := rfl
@[simp] theorem State.writeByte_fb (a : Nat) (b : Byte) : (s.writeByte a b).fb = s.fb := rfl
@[simp] theorem State.writeByte_keys (a : Nat) (b : Byte) : (s.writeByte a b).keys = s.keys := rfl
@[simp] theorem State.writeByte_status (a : Nat) (b : Byte) : (s.writeByte a b).status = s.status := rfl
@[simp] theorem State.writeByte_log (a : Nat) (b : Byte) : (s.writeByte a b).log = s.log := rfl
@[simp] theorem State.writeByte_params (a : Nat) (b : Byte) : (s.writeByte a b).params = s.params := rfl
@[simp] theorem State.writeByte_env (a : Nat) (b : Byte) : (s.writeByte a b).env = s.env := rfl
@[simp] theorem State.writeByte_stepNo (a : Nat) (b : Byte) : (s.writeByte a b).stepNo = s.stepNo := rfl

@[simp] theorem State.nextInputs_v : (s.nextInputs).v = s.v := rfl
@[simp] theorem State.nextInputs_i : (s.nextInputs).i = s.i := rfl
@[simp] theorem State.nextInputs_pc : (s.nextInputs).pc = s.pc := rfl
@[simp] theorem State.nextInputs_sp : (s.nextInputs).sp = s.sp := rfl
@[simp] theorem State.nextInputs_ir : (s.nextInputs).ir = s.ir := rfl
@[simp] theorem State.nextInputs_dt : (s.nextInputs).dt = s.dt := rfl
@[simp] theorem State.nextInputs_st : (s.nextInputs).st = s.st := rfl
@[simp] theorem State.nextInputs_fb : (s.nextInputs).fb = s.fb := rfl
@[simp] theorem State.nextInputs_keys : (s.nextInputs).keys = s.keys := rfl
@[simp] theorem State.nextInputs_mem : (s.nextInputs).mem = s.mem := rfl
@[simp] theorem State.nextInputs_status : (s.nextInputs).status = s.status := rfl
@[simp] theorem State.nextInputs_log : (s.nextInputs).log = s.log := rfl
@[simp] theorem State.nextInputs_params : (s.nextInputs).params = s.params := rfl
@[simp] theorem State.nextInputs_env : (s.nextInputs).env = Inputs.ofStep (s.stepNo + 1) := rfl
@[simp] theorem State.nextInputs_stepNo : (s.nextInputs).stepNo = s.stepNo + 1 := rfl

end Sys2Proof.Machine
end

