-- ==== Sys2Proof/Laws/Registers.lean ====
section
/-! SUPPORT. Reads of a register after each named update, and the program counter after each PC outcome. -/

namespace Sys2Proof.Machine

variable (s : State)

theorem State.getV_eq_of_v {s t : State} (h : t.v = s.v) (x : Nibble) : t.getV x = s.getV x := by
  simp [State.getV, h]

theorem State.getV_setV (x y : Nibble) (b : Byte) : (s.setV x b).getV y = if y = x then b else s.getV y := by
  unfold State.getV State.setV
  by_cases h : y = x
  · subst h; simp
  · have : x.toNat ≠ y.toNat := fun e => h (BitVec.eq_of_toNat_eq e.symm)
    simp [h, Vector.getElem_set_ne, this]

@[simp] theorem State.getV_setV_self (x : Nibble) (b : Byte) : (s.setV x b).getV x = b := by
  simp [State.getV_setV]

theorem State.getV_setV_ne {x y : Nibble} (b : Byte) (h : y ≠ x) : (s.setV x b).getV y = s.getV y := by
  simp [State.getV_setV, h]

@[simp] theorem State.getV_setI (w : Word) (x : Nibble) : (s.setI w).getV x = s.getV x := rfl
@[simp] theorem State.getV_setPC (n : Nat) (x : Nibble) : (s.setPC n).getV x = s.getV x := rfl
@[simp] theorem State.getV_setSP (w : Word) (x : Nibble) : (s.setSP w).getV x = s.getV x := rfl
@[simp] theorem State.getV_setIR (w : Word) (x : Nibble) : (s.setIR w).getV x = s.getV x := rfl
@[simp] theorem State.getV_setDT (b : Byte) (x : Nibble) : (s.setDT b).getV x = s.getV x := rfl
@[simp] theorem State.getV_setST (b : Byte) (x : Nibble) : (s.setST b).getV x = s.getV x := rfl
@[simp] theorem State.getV_setFB (f : Framebuffer) (x : Nibble) : (s.setFB f).getV x = s.getV x := rfl
@[simp] theorem State.getV_setKeys (k : Keys) (x : Nibble) : (s.setKeys k).getV x = s.getV x := rfl
@[simp] theorem State.getV_setStatus (q : Status) (x : Nibble) : (s.setStatus q).getV x = s.getV x := rfl
@[simp] theorem State.getV_emitLog (a : Addr) (x : Nibble) : (s.emitLog a).getV x = s.getV x := rfl
@[simp] theorem State.getV_writeByte (a : Nat) (b : Byte) (x : Nibble) : (s.writeByte a b).getV x = s.getV x := rfl
@[simp] theorem State.getV_nextInputs (x : Nibble) : s.nextInputs.getV x = s.getV x := rfl

/-- Every value written to PC is in range (10_state.md R25). -/
theorem State.setPC_toNat (n : Nat) : (s.setPC n).pc.toNat = n % 0x1000 := by
  simp only [State.setPC_pc, BitVec.toNat_ofNat]
  omega

/-- `skipIf` is one of the two advances (30_encoding.md R111). -/
theorem State.skipIf_eq (c : Bool) : s.skipIf c = s.setPC (s.pc.toNat + if c then 4 else 2) := by
  cases c <;> rfl

/-- What the flag-first write order leaves in each register (41_alu.md, WRITE ORDER). -/
theorem State.getV_flagThen (x y : Nibble) (f : Byte) (r : State → Byte) :
    (s.flagThen x f r).getV y = if y = x then r (s.setV vf f) else if y = vf then f else s.getV y := by
  simp [State.flagThen, State.getV_setV]

/-- `flagThen` changes registers only. -/
theorem State.flagThen_eq (x : Nibble) (f : Byte) (r : State → Byte) :
    ∃ v, s.flagThen x f r = { s with v := v } := ⟨_, rfl⟩

end Sys2Proof.Machine
end

