-- ==== Sys2Proof/Laws/Memory.lean ====
section
/-! SUPPORT. Memory as data: a read after a write, and that every memory operation keeps the canonical form. -/

namespace Sys2Proof.Machine

theorem Memory.find_erase (m : Memory) (a b : Nat) :
    Memory.find (Memory.erase m a) b = if b = a then none else Memory.find m b := by
  induction m with
  | nil => simp [Memory.erase, Memory.find]
  | cons c m ih =>
    simp only [Memory.erase]
    split
    · rename_i h
      rw [ih]
      by_cases e : b = a
      · simp [e]
      · simp [Memory.find, e, ← h]
    · rename_i h
      simp only [Memory.find, ih]
      by_cases e : b = a
      · simp [e, h]
      · simp [e]

theorem Memory.find_insert (m : Memory) (a b : Nat) (v : Byte) :
    Memory.find (Memory.insert m a v) b = if b = a then some v else Memory.find m b := by
  induction m with
  | nil => simp [Memory.insert, Memory.find]
  | cons c m ih =>
    simp only [Memory.insert]
    split
    · simp [Memory.find]
    · split
      · rename_i h
        simp only [Memory.find, ← h]
        by_cases e : b = a <;> simp [e]
      · rename_i h
        simp only [Memory.find, ih]
        by_cases e : b = a
        · simp [e, h]
        · simp [e]

/-- A read after a write: the value written at that address, every other address as before (20_memory.md R63, R64). -/
theorem State.readByte_writeByte (s : State) (a b : Nat) (v : Byte) :
    (s.writeByte a v).readByte b = if b % 0x1000 = a % 0x1000 then v else s.readByte b := by
  unfold State.writeByte State.readByte wrapAddr
  simp only [Config.memSize]
  split
  · rename_i h
    rw [Memory.find_erase]
    split <;> rename_i e
    · simp [e, ← h]
    · rfl
  · rw [Memory.find_insert]
    split <;> simp

/-- An access depends on its address only mod 0x1000 (20_memory.md R62). -/
theorem State.readByte_mod (s : State) {a b : Nat} (h : a % 0x1000 = b % 0x1000) : s.readByte a = s.readByte b := by
  simp [State.readByte, wrapAddr, Config.memSize, h]

theorem State.readByte_eq_of_mem {s t : State} (hm : t.mem = s.mem) (hp : t.params = s.params) (a : Nat) :
    t.readByte a = s.readByte a := by
  simp [State.readByte, hm, hp]

@[simp] theorem State.readByte_setV (s : State) (x : Nibble) (b : Byte) (a : Nat) :
    (s.setV x b).readByte a = s.readByte a := rfl
@[simp] theorem State.readByte_setI (s : State) (w : Word) (a : Nat) : (s.setI w).readByte a = s.readByte a := rfl
@[simp] theorem State.readByte_setPC (s : State) (n a : Nat) : (s.setPC n).readByte a = s.readByte a := rfl
@[simp] theorem State.readByte_setSP (s : State) (w : Word) (a : Nat) : (s.setSP w).readByte a = s.readByte a := rfl
@[simp] theorem State.readByte_setIR (s : State) (w : Word) (a : Nat) : (s.setIR w).readByte a = s.readByte a := rfl
@[simp] theorem State.readByte_setDT (s : State) (b : Byte) (a : Nat) : (s.setDT b).readByte a = s.readByte a := rfl
@[simp] theorem State.readByte_setST (s : State) (b : Byte) (a : Nat) : (s.setST b).readByte a = s.readByte a := rfl
@[simp] theorem State.readByte_setFB (s : State) (f : Framebuffer) (a : Nat) :
    (s.setFB f).readByte a = s.readByte a := rfl
@[simp] theorem State.readByte_setKeys (s : State) (k : Keys) (a : Nat) : (s.setKeys k).readByte a = s.readByte a := rfl
@[simp] theorem State.readByte_setStatus (s : State) (q : Status) (a : Nat) :
    (s.setStatus q).readByte a = s.readByte a := rfl
@[simp] theorem State.readByte_emitLog (s : State) (d : Addr) (a : Nat) : (s.emitLog d).readByte a = s.readByte a := rfl
@[simp] theorem State.readByte_nextInputs (s : State) (a : Nat) : s.nextInputs.readByte a = s.readByte a := rfl

theorem Memory.mem_erase {m : Memory} {a : Nat} {c : Host.Cell} (h : c ∈ Memory.erase m a) : c ∈ m := by
  induction m with
  | nil => simp [Memory.erase] at h
  | cons d m ih =>
    simp only [Memory.erase] at h
    split at h
    · exact List.mem_cons_of_mem _ (ih h)
    · rcases List.mem_cons.mp h with e | e
      · simp [e]
      · exact List.mem_cons_of_mem _ (ih e)

theorem Memory.mem_insert {m : Memory} {a : Nat} {v : Byte} {c : Host.Cell} (h : c ∈ Memory.insert m a v) :
    c = (a, v) ∨ c ∈ m := by
  induction m with
  | nil => simpa [Memory.insert] using h
  | cons d m ih =>
    simp only [Memory.insert] at h
    split at h
    · simpa using h
    · split at h
      · rcases List.mem_cons.mp h with e | e
        · exact .inl e
        · exact .inr (List.mem_cons_of_mem _ e)
      · rcases List.mem_cons.mp h with e | e
        · simp [e]
        · rcases ih e with e | e
          · exact .inl e
          · exact .inr (List.mem_cons_of_mem _ e)

/-- The canonical form of a list with a head, in words. -/
theorem Memory.wf_cons (font : Vector Byte 80) (c : Host.Cell) (m : Memory) :
    Memory.wf font (c :: m) = true ↔
      c.1 < 0x1000 ∧ c.2 ≠ Memory.unlisted font c.1 ∧ (∀ d ∈ m, c.1 < d.1) ∧ Memory.wf font m = true := by
  simp [Memory.wf, Config.memSize, and_assoc]

theorem Memory.wf_erase {font : Vector Byte 80} {m : Memory} (h : Memory.wf font m = true) (a : Nat) :
    Memory.wf font (Memory.erase m a) = true := by
  induction m with
  | nil => rfl
  | cons c m ih =>
    rw [Memory.wf_cons] at h
    simp only [Memory.erase]
    split
    · exact ih h.2.2.2
    · rw [Memory.wf_cons]
      exact ⟨h.1, h.2.1, fun d hd => h.2.2.1 d (Memory.mem_erase hd), ih h.2.2.2⟩

theorem Memory.wf_insert {font : Vector Byte 80} {m : Memory} (h : Memory.wf font m = true) {a : Nat} {v : Byte}
    (ha : a < 0x1000) (hv : v ≠ Memory.unlisted font a) : Memory.wf font (Memory.insert m a v) = true := by
  induction m with
  | nil => simp [Memory.insert, Memory.wf, Config.memSize, ha, hv]
  | cons c m ih =>
    have hc := h
    rw [Memory.wf_cons] at h
    simp only [Memory.insert]
    split
    · rename_i lt
      rw [Memory.wf_cons]
      refine ⟨ha, hv, fun d hd => ?_, hc⟩
      rcases List.mem_cons.mp hd with e | e
      · simpa [e] using lt
      · exact lt.trans (h.2.2.1 d e)
    · split
      · rename_i e
        rw [Memory.wf_cons]
        exact ⟨ha, hv, fun d hd => by simpa [e] using h.2.2.1 d hd, h.2.2.2⟩
      · rename_i n1 n2
        rw [Memory.wf_cons]
        refine ⟨h.1, h.2.1, fun d hd => ?_, ih h.2.2.2⟩
        rcases Memory.mem_insert hd with e | e
        · simp only [e]; omega
        · exact h.2.2.1 d e

/-- Every store keeps memory canonical. -/
theorem State.writeByte_wf {s : State} (h : Memory.wf s.params.font s.mem = true) (a : Nat) (v : Byte) :
    Memory.wf (s.writeByte a v).params.font (s.writeByte a v).mem = true := by
  simp only [State.writeByte_params]
  unfold State.writeByte
  simp only
  split
  · exact Memory.wf_erase h _
  · rename_i hv
    exact Memory.wf_insert h (Nat.mod_lt _ (by decide)) hv

theorem State.writeWord_wf {s : State} (h : Memory.wf s.params.font s.mem = true) (a : Nat) (w : Word) :
    Memory.wf (s.writeWord a w).params.font (s.writeWord a w).mem = true :=
  State.writeByte_wf (State.writeByte_wf h _ _) _ _

theorem State.writeBytes_wf {s : State} (h : Memory.wf s.params.font s.mem = true) (a : Nat) (bs : List Byte) :
    Memory.wf (s.writeBytes a bs).params.font (s.writeBytes a bs).mem = true := by
  induction bs generalizing s a with
  | nil => exact h
  | cons b bs ih => exact ih (State.writeByte_wf h a b) (a + 1)

theorem State.dumpRegs_wf {s : State} (h : Memory.wf s.params.font s.mem = true) (k : Nat) :
    Memory.wf (s.dumpRegs k).params.font (s.dumpRegs k).mem = true := by
  induction k with
  | zero => exact h
  | succ k ih => exact State.writeByte_wf ih _ _

/-- Memory after reset is canonical. -/
theorem State.reset_wf : Memory.wf State.reset.params.font State.reset.mem = true := rfl

/-- Equal canonical memories are equal data: two canonical lists that list the same values are the same list. -/
theorem Memory.ext_of_wf {font : Vector Byte 80} {m n : Memory} (hm : Memory.wf font m = true)
    (hn : Memory.wf font n = true) (h : ∀ a, Memory.find m a = Memory.find n a) : m = n := by
  induction m generalizing n with
  | nil =>
    cases n with
    | nil => rfl
    | cons d n => simpa [Memory.find] using h d.1
  | cons c m ih =>
    cases n with
    | nil => simpa [Memory.find] using h c.1
    | cons d n =>
      rw [Memory.wf_cons] at hm hn
      have notin : ∀ {l : Memory} {a : Nat}, (∀ e ∈ l, a < e.1) → ∀ b ≤ a, Memory.find l b = none := by
        intro l a hl b hb
        induction l with
        | nil => rfl
        | cons e l ihl =>
          have := hl e (by simp)
          simp only [Memory.find, if_neg (show b ≠ e.1 by omega)]
          exact ihl fun e he => hl e (List.mem_cons_of_mem _ he)
      have key : c.1 = d.1 := by
        rcases Nat.lt_trichotomy c.1 d.1 with lt | eq | gt
        · have := h c.1
          simp [Memory.find, Nat.ne_of_lt lt, notin hn.2.2.1 c.1 lt.le] at this
        · exact eq
        · have := h d.1
          simp [Memory.find, Nat.ne_of_lt gt, notin hm.2.2.1 d.1 gt.le] at this
      have val : c.2 = d.2 := by simpa [Memory.find, key] using h d.1
      have tail : m = n := ih hm.2.2.2 hn.2.2.2 fun a => by
        by_cases e : a = d.1
        · rw [notin hm.2.2.1 a (by omega), notin hn.2.2.1 a (by omega)]
        · simpa [Memory.find, key, e] using h a
      rw [tail, Prod.ext key val]

end Sys2Proof.Machine
end

