-- ==== Sys2Proof/Laws/Display.lean ====
section
/-! SUPPORT. Pixels: a read after a flip, and the clear framebuffer. -/

namespace Sys2Proof.Machine

/-- A pixel depends on its coordinates only mod 32 and mod 64 (43_display.md R193). -/
theorem pixelAt_mod (fb : Framebuffer) {r r' c c' : Nat} (hr : r % 32 = r' % 32) (hc : c % 64 = c' % 64) :
    pixelAt fb r c = pixelAt fb r' c' := by
  simp [pixelAt, hr, hc]

/-- A flip negates its own pixel and leaves every other pixel as it was. -/
theorem pixelAt_flipPixel (fb : Framebuffer) (r c r' c' : Nat) :
    pixelAt (flipPixel fb r c) r' c' =
      if r' % 32 = r % 32 ∧ c' % 64 = c % 64 then !pixelAt fb r' c' else pixelAt fb r' c' := by
  by_cases hr : r' % 32 = r % 32
  · by_cases hc : c' % 64 = c % 64
    · simp [pixelAt, flipPixel, hr, hc]
    · have : c % 64 ≠ c' % 64 := fun e => hc e.symm
      simp [pixelAt, flipPixel, hr, hc, Vector.getElem_set_ne, this]
  · have : r % 32 ≠ r' % 32 := fun e => hr e.symm
    simp [pixelAt, flipPixel, hr, Vector.getElem_set_ne, this]

@[simp] theorem pixelAt_clearFB (r c : Nat) : pixelAt clearFB r c = false := by
  simp [pixelAt, clearFB]

/-- Two framebuffers that agree on every pixel are equal. -/
theorem framebuffer_ext {f g : Framebuffer} (h : ∀ r < 32, ∀ c < 64, pixelAt f r c = pixelAt g r c) : f = g := by
  apply Vector.ext
  intro r hr
  apply Vector.ext
  intro c hc
  simpa [pixelAt, Nat.mod_eq_of_lt hr, Nat.mod_eq_of_lt hc] using h r hr c hc

end Sys2Proof.Machine
end

