-- ==== Sys2Proof/Laws/Encoding.lean ====
section
/-! SUPPORT. The fields of a word built in one of the formats of 30_encoding.md R98, and the bytes of a word. -/

namespace Sys2Proof

/-- A field of two fields put side by side lies in the low one, or in the high one. -/
theorem extract_append_low {n m k start : Nat} (a : BitVec n) (b : BitVec m) (h : start + k ≤ m) :
    (a ++ b).extractLsb' start k = b.extractLsb' start k := by
  apply BitVec.eq_of_getLsbD_eq
  intro i hi
  simp only [BitVec.getLsbD_extractLsb', BitVec.getLsbD_append, hi, decide_true, Bool.true_and]
  rw [if_pos (by omega)]

theorem extract_append_high {n m k start : Nat} (a : BitVec n) (b : BitVec m) (h : m ≤ start) :
    (a ++ b).extractLsb' start k = a.extractLsb' (start - m) k := by
  apply BitVec.eq_of_getLsbD_eq
  intro i hi
  simp only [BitVec.getLsbD_extractLsb', BitVec.getLsbD_append, hi, decide_true, Bool.true_and]
  rw [if_neg (by omega)]
  congr 1
  omega

@[simp] theorem family_formNNN (f : Nibble) (a : Addr) : family (formNNN f a) = f := by
  unfold family formNNN
  rw [extract_append_high _ _ (by decide)]
  exact BitVec.extractLsb'_eq_self

@[simp] theorem fieldNNN_formNNN (f : Nibble) (a : Addr) : fieldNNN (formNNN f a) = a := by
  unfold fieldNNN formNNN
  rw [extract_append_low _ _ (by decide)]
  exact BitVec.extractLsb'_eq_self

@[simp] theorem fieldNN_formNNN (f : Nibble) (a : Addr) : fieldNN (formNNN f a) = a.extractLsb' 0 8 := by
  unfold fieldNN formNNN
  exact extract_append_low _ _ (by decide)

@[simp] theorem family_formXNN (f x : Nibble) (nn : Byte) : family (formXNN f x nn) = f := by
  unfold family formXNN
  rw [extract_append_high _ _ (by decide), extract_append_high _ _ (by decide)]
  exact BitVec.extractLsb'_eq_self

@[simp] theorem fieldX_formXNN (f x : Nibble) (nn : Byte) : fieldX (formXNN f x nn) = x := by
  unfold fieldX formXNN
  rw [extract_append_high _ _ (by decide), extract_append_low _ _ (by decide)]
  exact BitVec.extractLsb'_eq_self

@[simp] theorem fieldNN_formXNN (f x : Nibble) (nn : Byte) : fieldNN (formXNN f x nn) = nn := by
  unfold fieldNN formXNN
  rw [extract_append_low _ _ (by decide)]
  exact BitVec.extractLsb'_eq_self

@[simp] theorem family_formXYN (f x y n : Nibble) : family (formXYN f x y n) = f := by
  unfold family formXYN
  rw [extract_append_high _ _ (by decide), extract_append_high _ _ (by decide), extract_append_high _ _ (by decide)]
  exact BitVec.extractLsb'_eq_self

@[simp] theorem fieldX_formXYN (f x y n : Nibble) : fieldX (formXYN f x y n) = x := by
  unfold fieldX formXYN
  rw [extract_append_high _ _ (by decide), extract_append_high _ _ (by decide), extract_append_low _ _ (by decide)]
  exact BitVec.extractLsb'_eq_self

@[simp] theorem fieldY_formXYN (f x y n : Nibble) : fieldY (formXYN f x y n) = y := by
  unfold fieldY formXYN
  rw [extract_append_high _ _ (by decide), extract_append_low _ _ (by decide)]
  exact BitVec.extractLsb'_eq_self

@[simp] theorem fieldN_formXYN (f x y n : Nibble) : fieldN (formXYN f x y n) = n := by
  unfold fieldN formXYN
  rw [extract_append_low _ _ (by decide)]
  exact BitVec.extractLsb'_eq_self

/-- A word is its two bytes, big-endian (20_memory.md R65). -/
@[simp] theorem wordOfBytes_bytes (w : Word) : wordOfBytes (hiByte w) (loByte w) = w := by
  apply BitVec.eq_of_getLsbD_eq
  intro i hi
  simp only [wordOfBytes, hiByte, loByte, BitVec.getLsbD_append, BitVec.getLsbD_extractLsb']
  split
  · simp [*]
  · rename_i h
    simp [show i - 8 < 8 by omega, show 8 + (i - 8) = i by omega]

end Sys2Proof
end

