-- ==== Sys2Proof/Laws/Blocks.lean ====
section
/-! SUPPORT. What the operations over several bytes or pixels do: the two bytes of a word, a 2-byte write, register blocks
and sprite rows. -/

namespace Sys2Proof

theorem hiByte_toNat (w : Word) : (hiByte w).toNat = w.toNat / 256 := by
  have := w.isLt
  simp [hiByte, BitVec.extractLsb'_toNat, Nat.shiftRight_eq_div_pow]
  omega

theorem loByte_toNat (w : Word) : (loByte w).toNat = w.toNat % 256 := by
  simp [loByte, BitVec.extractLsb'_toNat]

theorem wordOfBytes_toNat (a b : Byte) : (wordOfBytes a b).toNat = a.toNat * 256 + b.toNat := by
  unfold wordOfBytes
  have h := @BitVec.toNat_append 8 8 a b
  rw [← Nat.shiftLeft_add_eq_or_of_lt b.isLt, Nat.shiftLeft_eq] at h
  exact h

end Sys2Proof

namespace Sys2Proof.Machine

variable (s : State)

/-- A read after a 2-byte write (20_memory.md R64): the second byte is written last. -/
theorem State.readByte_writeWord (a : Nat) (w : Word) (b : Nat) :
    (s.writeWord a w).readByte b =
      if b % 0x1000 = (a + 1) % 0x1000 then loByte w else if b % 0x1000 = a % 0x1000 then hiByte w
      else s.readByte b := by
  simp [State.writeWord, State.readByte_writeByte]

/-- A 2-byte write touches memory only. -/
theorem State.writeWord_eq (a : Nat) (w : Word) : ∃ m, s.writeWord a w = { s with mem := m } := ⟨_, rfl⟩

/-- A register dump touches memory only. -/
theorem State.dumpRegs_eq (k : Nat) : ∃ m, s.dumpRegs k = { s with mem := m } := by
  induction k with
  | zero => exact ⟨_, rfl⟩
  | succ k ih =>
    obtain ⟨m, h⟩ := ih
    exact ⟨(s.dumpRegs (k + 1)).mem, by simp only [State.dumpRegs, h]; rfl⟩

/-- A read after a register dump (42_index_memory.md R174): stored registers, every other byte as before. -/
theorem State.readByte_dumpRegs_stored {k : Nat} (hk : k ≤ 16) {j : Nibble} (hj : j.toNat < k) :
    (s.dumpRegs k).readByte (s.i.toNat + j.toNat) = s.getV j := by
  induction k with
  | zero => omega
  | succ k ih =>
    simp only [State.dumpRegs, State.readByte_writeByte, State.indexAddr]
    by_cases e : j.toNat = k
    · subst e; simp
    · rw [if_neg (by omega)]
      exact ih (by omega) (by omega)

theorem State.readByte_dumpRegs_other {k a : Nat} (h : ¬stored s.i.toNat k a) :
    (s.dumpRegs k).readByte a = s.readByte a := by
  induction k with
  | zero => rfl
  | succ k ih =>
    simp only [State.dumpRegs, State.readByte_writeByte]
    rw [if_neg, ih]
    · rintro ⟨j, hj, e⟩
      exact h ⟨j, by omega, e⟩
    · intro e
      exact h ⟨k, by omega, by simpa [State.indexAddr] using e⟩

/-- A register load touches registers only. -/
theorem State.loadRegs_eq (k : Nat) : ∃ v, s.loadRegs k = { s with v := v } := by
  induction k with
  | zero => exact ⟨_, rfl⟩
  | succ k ih =>
    obtain ⟨v, h⟩ := ih
    exact ⟨(s.loadRegs (k + 1)).v, by simp only [State.loadRegs, h]; rfl⟩

/-- The registers after a register load (42_index_memory.md R175). -/
theorem State.getV_loadRegs {k : Nat} (hk : k ≤ 16) (j : Nibble) :
    (s.loadRegs k).getV j = if j.toNat < k then s.readByte (s.i.toNat + j.toNat) else s.getV j := by
  induction k with
  | zero => simp [State.loadRegs]
  | succ k ih =>
    simp only [State.loadRegs, State.getV_setV, State.indexAddr]
    by_cases e : j = BitVec.ofNat 4 k
    · have : j.toNat = k := by simp [e]; omega
      simp [← e, this]
    · have : j.toNat ≠ k := fun h => e (by rw [← h]; simp)
      rw [if_neg e, ih (by omega)]
      congr 1
      simp
      omega

/-- The first `k` columns of a sprite row cover pixel (r, c). -/
def rowCovers (b : Byte) (row cx k r c : Nat) : Prop :=
  row % 32 = r % 32 ∧ ∃ j < k, (cx + j) % 64 = c % 64 ∧ spriteBit b j = true

/-- One sprite row flips exactly the pixels its set bits cover, each once (43_display.md R191). -/
theorem pixelAt_drawBits (b : Byte) (row cx : Nat) (fb : Framebuffer) (hit : Bool) {k : Nat} (hk : k ≤ 8) (r c : Nat) :
    (rowCovers b row cx k r c → pixelAt (drawBits b row cx fb hit k).1 r c = !pixelAt fb r c) ∧
      (¬rowCovers b row cx k r c → pixelAt (drawBits b row cx fb hit k).1 r c = pixelAt fb r c) := by
  induction k with
  | zero => simp [drawBits, rowCovers]
  | succ k ih =>
    have ih := ih (by omega)
    have one : rowCovers b row cx k r c → ¬(c % 64 = (cx + k) % 64) := by
      rintro ⟨-, j, hj, e, -⟩ h
      omega
    by_cases hb : spriteBit b k = true
    · have hd : (drawBits b row cx fb hit (k + 1)).1 = flipPixel (drawBits b row cx fb hit k).1 row (cx + k) := by
        simp [drawBits, hb]
      rw [hd, pixelAt_flipPixel]
      by_cases here : r % 32 = row % 32 ∧ c % 64 = (cx + k) % 64
      · have no : ¬rowCovers b row cx k r c := fun h => one h here.2
        rw [if_pos here, ih.2 no]
        exact ⟨fun _ => rfl, fun h => absurd ⟨here.1.symm, k, by omega, here.2.symm, hb⟩ h⟩
      · rw [if_neg here]
        refine ⟨?_, fun h => ih.2 fun ⟨h1, j, hj, h2, h3⟩ => h ⟨h1, j, by omega, h2, h3⟩⟩
        rintro ⟨h1, j, hj, h2, h3⟩
        by_cases e : j = k
        · subst e
          exact absurd ⟨h1.symm, h2.symm⟩ here
        · exact ih.1 ⟨h1, j, by omega, h2, h3⟩
    · have hd : drawBits b row cx fb hit (k + 1) = drawBits b row cx fb hit k := by simp [drawBits, hb]
      rw [hd]
      refine ⟨?_, fun h => ih.2 fun ⟨h1, j, hj, h2, h3⟩ => h ⟨h1, j, by omega, h2, h3⟩⟩
      rintro ⟨h1, j, hj, h2, h3⟩
      by_cases e : j = k
      · exact absurd (e ▸ h3) hb
      · exact ih.1 ⟨h1, j, by omega, h2, h3⟩

/-- The collision record of one sprite row: what it was, or that a covered pixel was set (43_display.md R194). -/
theorem hit_drawBits (b : Byte) (row cx : Nat) (fb : Framebuffer) (hit : Bool) {k : Nat} (hk : k ≤ 8) :
    (drawBits b row cx fb hit k).2 = true ↔
      hit = true ∨ ∃ j < k, spriteBit b j = true ∧ pixelAt fb row (cx + j) = true := by
  induction k with
  | zero => simp [drawBits]
  | succ k ih =>
    have ih := ih (by omega)
    have before : ¬rowCovers b row cx k row (cx + k) := by
      rintro ⟨-, j, hj, e, -⟩
      omega
    have same := (pixelAt_drawBits b row cx fb hit (show k ≤ 8 by omega) row (cx + k)).2 before
    by_cases hb : spriteBit b k = true
    · have hd : (drawBits b row cx fb hit (k + 1)).2 =
          ((drawBits b row cx fb hit k).2 || pixelAt (drawBits b row cx fb hit k).1 row (cx + k)) := by
        simp [drawBits, hb]
      rw [hd, same, Bool.or_eq_true, ih]
      constructor
      · rintro ((h | ⟨j, hj, h⟩) | h)
        · exact .inl h
        · exact .inr ⟨j, by omega, h⟩
        · exact .inr ⟨k, by omega, hb, h⟩
      · rintro (h | ⟨j, hj, h⟩)
        · exact .inl (.inl h)
        · by_cases e : j = k
          · subst e
            exact .inr h.2
          · exact .inl (.inr ⟨j, by omega, h⟩)
    · have hd : drawBits b row cx fb hit (k + 1) = drawBits b row cx fb hit k := by simp [drawBits, hb]
      rw [hd, ih]
      constructor
      · rintro (h | ⟨j, hj, h⟩)
        · exact .inl h
        · exact .inr ⟨j, by omega, h⟩
      · rintro (h | ⟨j, hj, h⟩)
        · exact .inl h
        · by_cases e : j = k
          · exact absurd (e ▸ h.1) hb
          · exact .inr ⟨j, by omega, h⟩

/-- The first `k` rows of a sprite cover pixel (r, c). -/
def rowsCover (bytes : Nat → Byte) (cy cx k r c : Nat) : Prop := ∃ j < k, rowCovers (bytes j) (cy + j) cx 8 r c

/-- A sprite of at most 32 rows flips exactly the pixels it covers, each once (43_display.md R191, R193). -/
theorem pixelAt_drawRows (bytes : Nat → Byte) (cy cx : Nat) (fb : Framebuffer) {k : Nat} (hk : k ≤ 32) (r c : Nat) :
    (rowsCover bytes cy cx k r c → pixelAt (drawRows bytes cy cx fb k).1 r c = !pixelAt fb r c) ∧
      (¬rowsCover bytes cy cx k r c → pixelAt (drawRows bytes cy cx fb k).1 r c = pixelAt fb r c) := by
  induction k with
  | zero => simp [drawRows, rowsCover]
  | succ k ih =>
    have ih := ih (by omega)
    have row := pixelAt_drawBits (bytes k) (cy + k) cx (drawRows bytes cy cx fb k).1 (drawRows bytes cy cx fb k).2
      (le_refl 8) r c
    have one : rowsCover bytes cy cx k r c → ¬rowCovers (bytes k) (cy + k) cx 8 r c := by
      rintro ⟨j, hj, h1, -⟩ ⟨h2, -⟩
      omega
    constructor
    · rintro ⟨j, hj, h⟩
      by_cases e : j = k
      · subst e
        exact (row.1 h).trans (by rw [ih.2 fun h' => one h' h])
      · have h' : rowsCover bytes cy cx k r c := ⟨j, by omega, h⟩
        exact (row.2 (one h')).trans (ih.1 h')
    · intro h
      exact (row.2 fun h' => h ⟨k, by omega, h'⟩).trans (ih.2 fun ⟨j, hj, h'⟩ => h ⟨j, by omega, h'⟩)

/-- The collision record of a whole sprite (43_display.md R194). -/
theorem hit_drawRows (bytes : Nat → Byte) (cy cx : Nat) (fb : Framebuffer) {k : Nat} (hk : k ≤ 32) :
    (drawRows bytes cy cx fb k).2 = true ↔ ∃ r c, rowsCover bytes cy cx k r c ∧ pixelAt fb r c = true := by
  induction k with
  | zero => simp [drawRows, rowsCover]
  | succ k ih =>
    have ih := ih (by omega)
    have step : (drawRows bytes cy cx fb (k + 1)).2 = true ↔ _ :=
      hit_drawBits (bytes k) (cy + k) cx (drawRows bytes cy cx fb k).1 (drawRows bytes cy cx fb k).2 (le_refl 8)
    rw [step, ih]
    have fresh : ∀ j < 8, ¬rowsCover bytes cy cx k (cy + k) (cx + j) := by
      rintro j - ⟨i, hi, h, -⟩
      omega
    constructor
    · rintro (⟨r, c, ⟨j, hj, h⟩, p⟩ | ⟨j, hj, hb, p⟩)
      · exact ⟨r, c, ⟨j, by omega, h⟩, p⟩
      · rw [(pixelAt_drawRows bytes cy cx fb (show k ≤ 32 by omega) _ _).2 (fresh j hj)] at p
        exact ⟨cy + k, cx + j, ⟨k, by omega, rfl, j, hj, rfl, hb⟩, p⟩
    · rintro ⟨r, c, ⟨i, hi, h⟩, p⟩
      by_cases e : i = k
      · subst e
        obtain ⟨h1, j, hj, h2, hb⟩ := h
        refine .inr ⟨j, hj, hb, ?_⟩
        rw [(pixelAt_drawRows bytes cy cx fb (show i ≤ 32 by omega) _ _).2 (fresh j hj), pixelAt_mod fb h1 h2]
        exact p
      · exact .inl ⟨r, c, ⟨i, by omega, h⟩, p⟩

/-- Being fault-free is a matter of the status alone. -/
theorem State.faultFree_of_status {s t : State} (h : t.status = s.status) : t.faultFree = s.faultFree := by
  simp [State.faultFree, h]

end Sys2Proof.Machine
end

