-- ==== Sys2Proof/Laws/PerInstr.lean ====
section
/-! SUPPORT. Per instruction: the encoder's word satisfies the mask and match of the instruction's row of
spec/opcode_table.json, so the encoder and the table agree on every examined bit. -/

namespace Sys2Proof.Laws.TableRow

open Sys2Proof

/-- The word `encode` gives satisfies the row of the opcode table. -/
def Statement (i : Instr) : Prop := encode i &&& i.tableMask = i.tableMatch

theorem mask_family (w : Word) : w &&& 0xF000#16 = family w ++ 0#12 := by
  apply BitVec.eq_of_getLsbD_eq
  intro k hk
  simp only [family, BitVec.getLsbD_and, BitVec.getLsbD_append, BitVec.getLsbD_extractLsb']
  interval_cases k <;> simp

theorem mask_family_nibble (w : Word) : w &&& 0xF00F#16 = family w ++ 0#8 ++ fieldN w := by
  apply BitVec.eq_of_getLsbD_eq
  intro k hk
  simp only [family, fieldN, BitVec.getLsbD_and, BitVec.getLsbD_append, BitVec.getLsbD_extractLsb']
  interval_cases k <;> simp

theorem mask_family_byte (w : Word) : w &&& 0xF0FF#16 = family w ++ 0#4 ++ fieldNN w := by
  apply BitVec.eq_of_getLsbD_eq
  intro k hk
  simp only [family, fieldNN, BitVec.getLsbD_and, BitVec.getLsbD_append, BitVec.getLsbD_extractLsb']
  interval_cases k <;> simp

theorem legacyCall (nnn : Addr) : Statement (.legacyCall nnn) :=
  (mask_family _).trans (by simp only [encode, family_formNNN]; rfl)

theorem clearScreen : Statement .clearScreen :=
  by unfold Statement; decide

theorem ret : Statement .ret :=
  by unfold Statement; decide

theorem jump (nnn : Addr) : Statement (.jump nnn) :=
  (mask_family _).trans (by simp only [encode, family_formNNN]; rfl)

theorem call (nnn : Addr) : Statement (.call nnn) :=
  (mask_family _).trans (by simp only [encode, family_formNNN]; rfl)

theorem skipIfEqImm (x : Nibble) (nn : Byte) : Statement (.skipIfEqImm x nn) :=
  (mask_family _).trans (by simp only [encode, family_formXNN]; rfl)

theorem skipIfNeImm (x : Nibble) (nn : Byte) : Statement (.skipIfNeImm x nn) :=
  (mask_family _).trans (by simp only [encode, family_formXNN]; rfl)

theorem skipIfEqReg (x y : Nibble) : Statement (.skipIfEqReg x y) :=
  (mask_family _).trans (by simp only [encode, family_formXYN]; rfl)

theorem moveImm (x : Nibble) (nn : Byte) : Statement (.moveImm x nn) :=
  (mask_family _).trans (by simp only [encode, family_formXNN]; rfl)

theorem addImm (x : Nibble) (nn : Byte) : Statement (.addImm x nn) :=
  (mask_family _).trans (by simp only [encode, family_formXNN]; rfl)

theorem moveReg (x y : Nibble) : Statement (.moveReg x y) :=
  (mask_family_nibble _).trans (by simp only [encode, family_formXYN, fieldN_formXYN]; rfl)

theorem orReg (x y : Nibble) : Statement (.orReg x y) :=
  (mask_family_nibble _).trans (by simp only [encode, family_formXYN, fieldN_formXYN]; rfl)

theorem andReg (x y : Nibble) : Statement (.andReg x y) :=
  (mask_family_nibble _).trans (by simp only [encode, family_formXYN, fieldN_formXYN]; rfl)

theorem xorReg (x y : Nibble) : Statement (.xorReg x y) :=
  (mask_family_nibble _).trans (by simp only [encode, family_formXYN, fieldN_formXYN]; rfl)

theorem addReg (x y : Nibble) : Statement (.addReg x y) :=
  (mask_family_nibble _).trans (by simp only [encode, family_formXYN, fieldN_formXYN]; rfl)

theorem subReg (x y : Nibble) : Statement (.subReg x y) :=
  (mask_family_nibble _).trans (by simp only [encode, family_formXYN, fieldN_formXYN]; rfl)

theorem shiftRight (x y : Nibble) : Statement (.shiftRight x y) :=
  (mask_family_nibble _).trans (by simp only [encode, family_formXYN, fieldN_formXYN]; rfl)

theorem subRegRev (x y : Nibble) : Statement (.subRegRev x y) :=
  (mask_family_nibble _).trans (by simp only [encode, family_formXYN, fieldN_formXYN]; rfl)

theorem shiftLeft (x y : Nibble) : Statement (.shiftLeft x y) :=
  (mask_family_nibble _).trans (by simp only [encode, family_formXYN, fieldN_formXYN]; rfl)

theorem skipIfNeReg (x y : Nibble) : Statement (.skipIfNeReg x y) :=
  (mask_family _).trans (by simp only [encode, family_formXYN]; rfl)

theorem setIndex (nnn : Addr) : Statement (.setIndex nnn) :=
  (mask_family _).trans (by simp only [encode, family_formNNN]; rfl)

theorem jumpOffset (nnn : Addr) : Statement (.jumpOffset nnn) :=
  (mask_family _).trans (by simp only [encode, family_formNNN]; rfl)

theorem randMask (x : Nibble) (nn : Byte) : Statement (.randMask x nn) :=
  (mask_family _).trans (by simp only [encode, family_formXNN]; rfl)

theorem drawSprite (x y n : Nibble) : Statement (.drawSprite x y n) :=
  (mask_family _).trans (by simp only [encode, family_formXYN]; rfl)

theorem skipIfKey (x : Nibble) : Statement (.skipIfKey x) :=
  (mask_family_byte _).trans (by simp only [encode, family_formXNN, fieldNN_formXNN]; rfl)

theorem skipIfNotKey (x : Nibble) : Statement (.skipIfNotKey x) :=
  (mask_family_byte _).trans (by simp only [encode, family_formXNN, fieldNN_formXNN]; rfl)

theorem readDelay (x : Nibble) : Statement (.readDelay x) :=
  (mask_family_byte _).trans (by simp only [encode, family_formXNN, fieldNN_formXNN]; rfl)

theorem waitKey (x : Nibble) : Statement (.waitKey x) :=
  (mask_family_byte _).trans (by simp only [encode, family_formXNN, fieldNN_formXNN]; rfl)

theorem setDelay (x : Nibble) : Statement (.setDelay x) :=
  (mask_family_byte _).trans (by simp only [encode, family_formXNN, fieldNN_formXNN]; rfl)

theorem setSound (x : Nibble) : Statement (.setSound x) :=
  (mask_family_byte _).trans (by simp only [encode, family_formXNN, fieldNN_formXNN]; rfl)

theorem indexAdd (x : Nibble) : Statement (.indexAdd x) :=
  (mask_family_byte _).trans (by simp only [encode, family_formXNN, fieldNN_formXNN]; rfl)

theorem indexSetSprite (x : Nibble) : Statement (.indexSetSprite x) :=
  (mask_family_byte _).trans (by simp only [encode, family_formXNN, fieldNN_formXNN]; rfl)

theorem storeBcd (x : Nibble) : Statement (.storeBcd x) :=
  (mask_family_byte _).trans (by simp only [encode, family_formXNN, fieldNN_formXNN]; rfl)

theorem registerDump (x : Nibble) : Statement (.registerDump x) :=
  (mask_family_byte _).trans (by simp only [encode, family_formXNN, fieldNN_formXNN]; rfl)

theorem registerLoad (x : Nibble) : Statement (.registerLoad x) :=
  (mask_family_byte _).trans (by simp only [encode, family_formXNN, fieldNN_formXNN]; rfl)

end Sys2Proof.Laws.TableRow
end

