-- ==== Sys2Proof/Laws/Shared.lean ====
section
/-! SUPPORT. What each shared operation of the cycle can do, said once: skips, the timer tick, the host's write, the end of
a step, the fetch and the poll. -/

namespace Sys2Proof.Machine

variable (s : State)

/-- A count-down never goes below zero (60_exceptions.md R239). -/
theorem countDown_toNat (b : Byte) : (countDown b).toNat = b.toNat - 1 := by
  unfold countDown
  split
  · rename_i h; simp [h]
  · rename_i h
    have : b.toNat ≠ 0 := fun e => h (BitVec.eq_of_toNat_eq (by simpa using e))
    rw [BitVec.toNat_sub_of_le]
    · rfl
    · simp only [BitVec.le_def]; exact Nat.one_le_iff_ne_zero.mpr this

/-- The tick touches the two timers only. -/
theorem State.timerTick_eq (b : Bool) :
    s.timerTick b = { s with dt := if b then countDown s.dt else s.dt, st := if b then countDown s.st else s.st } := by
  cases b <;> rfl

/-- The end of a step touches the timers, and the model's own `env` and `stepNo`. -/
theorem State.finish_eq :
    s.finish = { s with
      dt := if !s.status.isHalted && s.env.tick then countDown s.dt else s.dt
      st := if !s.status.isHalted && s.env.tick then countDown s.st else s.st
      env := Inputs.ofStep (s.stepNo + 1)
      stepNo := s.stepNo + 1 } := by
  unfold State.finish
  cases s.status.isHalted <;> cases s.env.tick <;> rfl

@[simp] theorem State.finish_v : s.finish.v = s.v := by rw [State.finish_eq]
@[simp] theorem State.finish_i : s.finish.i = s.i := by rw [State.finish_eq]
@[simp] theorem State.finish_pc : s.finish.pc = s.pc := by rw [State.finish_eq]
@[simp] theorem State.finish_sp : s.finish.sp = s.sp := by rw [State.finish_eq]
@[simp] theorem State.finish_ir : s.finish.ir = s.ir := by rw [State.finish_eq]
@[simp] theorem State.finish_fb : s.finish.fb = s.fb := by rw [State.finish_eq]
@[simp] theorem State.finish_keys : s.finish.keys = s.keys := by rw [State.finish_eq]
@[simp] theorem State.finish_mem : s.finish.mem = s.mem := by rw [State.finish_eq]
@[simp] theorem State.finish_status : s.finish.status = s.status := by rw [State.finish_eq]
@[simp] theorem State.finish_log : s.finish.log = s.log := by rw [State.finish_eq]
@[simp] theorem State.finish_params : s.finish.params = s.params := by rw [State.finish_eq]

/-- The host's write touches the latch only. -/
theorem State.hostWrite_eq : s.hostWrite = { s with keys := s.env.keyWrite.getD s.keys } := rfl

/-- The fetch writes IR only (30_encoding.md R110). -/
theorem State.fetch_eq : s.fetch = { s with ir := s.readWord s.pc.toNat } := rfl

/-- A poll either renews its sample, or completes the wait with a chosen key (44_input_timers.md R214). -/
theorem State.poll_cases (xw : Nibble) (prev : Keys) :
    (chosenKey s.env.keyPick prev s.keys = none ∧ s.poll xw prev = s.setStatus (.waitingKey xw s.keys)) ∨
      ∃ k, chosenKey s.env.keyPick prev s.keys = some k ∧
        s.poll xw prev = ((s.setV xw (k.setWidth 8)).setStatus .running).advance2 := by
  unfold State.poll
  cases h : chosenKey s.env.keyPick prev s.keys with
  | none => exact .inl ⟨rfl, rfl⟩
  | some k => exact .inr ⟨k, rfl, rfl⟩

/-- The new keys are those whose latch bit went from false to true. -/
theorem mem_newKeys (prev now : Keys) (k : Nibble) :
    k ∈ newKeys prev now ↔ prev.getLsbD k.toNat = false ∧ now.getLsbD k.toNat = true := by
  simp only [newKeys, List.mem_map, List.mem_filter, List.mem_range, Bool.and_eq_true, Bool.not_eq_true']
  constructor
  · rintro ⟨j, ⟨hj, h⟩, rfl⟩
    simpa [BitVec.toNat_ofNat, Nat.mod_eq_of_lt hj] using h
  · intro h
    exact ⟨k.toNat, ⟨k.isLt, h⟩, by simp⟩

/-- The chosen key is a new key, and there is one exactly when some key is new. -/
theorem chosenKey_mem {pick : Nat} {prev now : Keys} {k : Nibble} (h : chosenKey pick prev now = some k) :
    k ∈ newKeys prev now := List.mem_of_getElem? h

theorem chosenKey_none (pick : Nat) (prev now : Keys) : chosenKey pick prev now = none ↔ newKeys prev now = [] := by
  unfold chosenKey
  rw [List.getElem?_eq_none_iff]
  constructor
  · intro h
    by_contra hne
    exact absurd (Nat.mod_lt pick (List.length_pos_iff.mpr hne)) (by omega)
  · intro h; simp [h]

/-- Every new key is the choice for some environment (44_input_timers.md R214; D14). -/
theorem chosenKey_surjective {prev now : Keys} {k : Nibble} (h : k ∈ newKeys prev now) :
    ∃ pick, chosenKey pick prev now = some k := by
  obtain ⟨n, hn, rfl⟩ := List.mem_iff_getElem.mp h
  exact ⟨n, by simp [chosenKey, Nat.mod_eq_of_lt hn, hn]⟩

/-- What `finishOutcome` answers. -/
theorem finishOutcome_next {o : Host.Outcome State Fault Refusal} {t : State} :
    finishOutcome o = .next t ↔ ∃ u, o = .next u ∧ t = u.finish := by
  cases o <;> simp [finishOutcome, eq_comm]

/-- What a running step does: run the fetched word's instruction, or halt on an UNRECOGNIZED word. -/
theorem step_running (h : s.status = .running) : step s = finishOutcome (runInstr s.hostWrite) := by
  simp [step, engineStep, h]

theorem step_waiting {xw : Nibble} {prev : Keys} (h : s.status = .waitingKey xw prev) :
    step s = .next (s.hostWrite.poll xw prev).finish := by
  simp [step, engineStep, h]

theorem step_halted {f : Fault} (h : s.status = .halted f) : step s = .fault f := by
  simp [step, engineStep, h]

end Sys2Proof.Machine
end

