-- ==== Sys2Proof/Tests/Slice0.lean ====
section
/-! SUPPORT. The model's own tests: decoding word by word, one step on a small state with results from
95_test_vectors.md, the well-formedness smoke test, and a witness for the hypotheses of each statement. -/

namespace Sys2Proof.Tests

open Sys2Proof Sys2Proof.Machine

/-! ### A small state and a step -/

/-- Inputs with no tick and no latch write. -/
def quiet : Inputs := { tick := false, rand := 0x00, keyWrite := none, keyPick := 0 }

/-- The same inputs with a tick. -/
def ticking : Inputs := { tick := true, rand := 0x00, keyWrite := none, keyPick := 0 }

/-- The reset state of 95_test_vectors.md's conventions: the region (0x1E0, 0x200), an all-zero FONT, quiet inputs. -/
def base : State :=
  { State.init { stackBase := 0x1E0, stackLimit := 0x200, font := Vector.replicate 80 0x00 } with env := quiet }

/-- The state after a step, if there is one. -/
def stepOf (s : State) : Option State :=
  match step s with
  | .next t => some t
  | .fault _ => none
  | .refused _ => none

/-- What a function of the state is after one step that fetches `w`. -/
def after {α : Type} (s : State) (w : Nat) (f : State → α) : Option α := (stepOf (s.withFetchWord 16 w)).map f

theorem exists_of_after {α : Type} {s : State} {w : Nat} {f : State → α} {v : α} (h : after s w f = some v) :
    ∃ t, step (s.withFetchWord 16 w) = .next t ∧ f t = v := by
  unfold after stepOf at h
  cases e : step (s.withFetchWord 16 w) with
  | next t => exact ⟨t, rfl, by simpa [e] using h⟩
  | fault r => simp [e] at h
  | refused r => simp [e] at h

/-! ### Decoding: every constructor, words written from 30_encoding.md R116 and 95_test_vectors.md -/

theorem test_decode_control_flow :
    decode 0x0123 = .ok (.legacyCall 0x123) ∧ decode 0x00EE = .ok .ret ∧ decode 0x0FEE = .ok .ret ∧
    decode 0x1204 = .ok (.jump 0x204) ∧ decode 0x220A = .ok (.call 0x20A) ∧
    decode 0x3342 = .ok (.skipIfEqImm 0x3 0x42) ∧ decode 0x4A41 = .ok (.skipIfNeImm 0xA 0x41) ∧
    decode 0x512F = .ok (.skipIfEqReg 0x1 0x2) ∧ decode 0x9AB7 = .ok (.skipIfNeReg 0xA 0xB) ∧
    decode 0xB1F1 = .ok (.jumpOffset 0x1F1) := by decide

theorem test_decode_alu :
    decode 0x6F07 = .ok (.moveImm 0xF 0x07) ∧ decode 0x7003 = .ok (.addImm 0x0 0x03) ∧
    decode 0x8120 = .ok (.moveReg 0x1 0x2) ∧ decode 0x8231 = .ok (.orReg 0x2 0x3) ∧
    decode 0x8342 = .ok (.andReg 0x3 0x4) ∧ decode 0x8453 = .ok (.xorReg 0x4 0x5) ∧
    decode 0x8F14 = .ok (.addReg 0xF 0x1) ∧ decode 0x8235 = .ok (.subReg 0x2 0x3) ∧
    decode 0x8276 = .ok (.shiftRight 0x2 0x7) ∧ decode 0x80F7 = .ok (.subRegRev 0x0 0xF) ∧
    decode 0x8ABE = .ok (.shiftLeft 0xA 0xB) ∧ decode 0xC00F = .ok (.randMask 0x0 0x0F) := by decide

theorem test_decode_index_memory :
    decode 0xA300 = .ok (.setIndex 0x300) ∧ decode 0xF21E = .ok (.indexAdd 0x2) ∧
    decode 0xF029 = .ok (.indexSetSprite 0x0) ∧ decode 0xF133 = .ok (.storeBcd 0x1) ∧
    decode 0xF255 = .ok (.registerDump 0x2) ∧ decode 0xF165 = .ok (.registerLoad 0x1) := by decide

theorem test_decode_display :
    decode 0x00E0 = .ok .clearScreen ∧ decode 0x01E0 = .ok .clearScreen ∧ decode 0xD012 = .ok (.drawSprite 0x0 0x1 0x2) := by
  decide

theorem test_decode_input_timers :
    decode 0xE19E = .ok (.skipIfKey 0x1) ∧ decode 0xE5A1 = .ok (.skipIfNotKey 0x5) ∧
    decode 0xF507 = .ok (.readDelay 0x5) ∧ decode 0xF30A = .ok (.waitKey 0x3) ∧
    decode 0xF015 = .ok (.setDelay 0x0) ∧ decode 0xF418 = .ok (.setSound 0x4) := by decide

theorem test_decode_unrecognized :
    decode 0x8008 = .error (.unrecognized 0x8008) ∧ decode 0x800F = .error (.unrecognized 0x800F) ∧
    decode 0xE09F = .error (.unrecognized 0xE09F) ∧ decode 0xF000 = .error (.unrecognized 0xF000) ∧
    decode 0xF075 = .error (.unrecognized 0xF075) ∧ decode 0xFFFF = .error (.unrecognized 0xFFFF) := by decide

/-- Memory bytes reach the decoder high byte first (30_encoding.md R90), and one byte is refused by name. -/
theorem test_decode_bytes :
    decodeBytes [0x63, 0x42, 0xAA] = .ok (.moveImm 0x3 0x42, [0xAA]) ∧ decodeBytes [0x63] = .error .truncated ∧
    decodeTableWord 16 0x6342 = some (.moveImm 0x3 0x42) ∧ decodeTableWord 16 0x8008 = none := by decide

/-- The encoder writes ignored bits as zeros. -/
theorem test_encode :
    encode (.skipIfEqReg 0x1 0x2) = 0x5120 ∧ encode .ret = 0x00EE ∧ encode (.registerLoad 0x1) = 0xF165 := by decide

/-- The one check of well-formedness refuses both excluded low bytes, and nothing next to them. -/
theorem test_wellFormed_smoke :
    (Instr.legacyCall 0x3E0).wellFormed = false ∧ (Instr.legacyCall 0x0EE).wellFormed = false ∧
    (Instr.legacyCall 0x0E1).wellFormed = true ∧ (Instr.legacyCall 0xE00).wellFormed = true := by decide

/-! ### One step: control flow (95_test_vectors.md CF) -/

/-- CF-1. -/
theorem test_legacy_call : after base 0x0123 (fun t => (t.pc, t.ir, t.log)) = some (0x202, 0x0123, [0x123]) := by decide

/-- CF-8. -/
theorem test_return :
    after (({ base with pc := 0x30A, sp := 0x1E2 } : State).writeWord 0x1E0 0x0ABC) 0x0FEE
      (fun t => (t.pc, t.sp, t.readWord 0x1E0)) = some (0xABC, 0x1E0, 0x0ABC) := by decide

/-- CF-9: no tick on a fault. -/
theorem test_return_underflow :
    after { base with dt := 2, env := ticking } 0x00EE (fun t => (t.status, t.pc, t.ir, t.dt)) =
      some (.halted (.stackUnderflow 0x200 0x00EE), 0x200, 0x00EE, 2) := by decide

/-- CF-3. -/
theorem test_jump : after base 0x1204 (fun t => (t.pc, t.ir)) = some (0x204, 0x1204) := by decide

/-- CF-6: the return address wraps. -/
theorem test_call_wraps :
    after (({ base with pc := 0xFFE } : State).writeWord 0x1E0 0xFFFF) 0x2300 (fun t => (t.pc, t.sp, t.readWord 0x1E0)) =
      some (0x300, 0x1E2, 0x0000) := by decide

/-- CF-23. -/
theorem test_call_overflow :
    after { base with sp := 0x200, dt := 2, env := ticking } 0x2300 (fun t => (t.status, t.sp, t.pc, t.dt)) =
      some (.halted (.stackOverflow 0x200 0x2300), 0x200, 0x200, 2) := by decide

/-- CF-12: a skip wraps. -/
theorem test_skip_eq_imm : after { base with pc := 0xFFE } 0x3000 State.pc = some 0x002 := by decide

/-- CF-13 and CF-14. -/
theorem test_skip_ne_imm :
    after (base.setV 3 0x42) 0x4342 State.pc = some 0x202 ∧ after (base.setV 3 0x42) 0x4341 State.pc = some 0x204 := by decide

/-- CF-16 and CF-17. -/
theorem test_skip_eq_reg :
    after ((base.setV 1 7).setV 2 8) 0x512F State.pc = some 0x202 ∧ after (base.setV 5 0x33) 0x5557 State.pc = some 0x204 := by
  decide

/-- CF-18 and CF-19. -/
theorem test_skip_ne_reg :
    after ((base.setV 1 7).setV 2 8) 0x9120 State.pc = some 0x204 ∧ after (base.setV 0xA 0x10) 0x9AA3 State.pc = some 0x202 := by
  decide

/-- CF-21 and CF-22. -/
theorem test_jump_offset :
    after (base.setV 0 0x02) 0xBFFF State.pc = some 0x001 ∧
    after ((base.setV 0 0xFF).setV 1 0x55) 0xB1F1 State.pc = some 0x2F0 := by decide

/-! ### One step: arithmetic and logic (95_test_vectors.md AL) -/

/-- L1-2. -/
theorem test_move_imm : after base 0x6342 (fun t => (t.getV 3, t.pc)) = some (0x42, 0x202) := by decide

/-- AL-3. -/
theorem test_add_imm : after (base.setV 0 0xFE) 0x7003 (fun t => (t.getV 0, t.getV 15)) = some (0x01, 0x00) := by decide

/-- AL-5. -/
theorem test_move_reg : after (base.setV 2 0x9C) 0x8120 (fun t => t.getV 1) = some 0x9C := by decide

/-- AL-6: VF is not reset. -/
theorem test_or :
    after (((base.setV 0 0xF0).setV 1 0x0F).setV 15 5) 0x8011 (fun t => (t.getV 0, t.getV 15)) = some (0xFF, 5) := by decide

/-- AL-7. -/
theorem test_and :
    after (((base.setV 0 0xF0).setV 1 0x3C).setV 15 5) 0x8012 (fun t => (t.getV 0, t.getV 15)) = some (0x30, 5) := by decide

/-- AL-8. -/
theorem test_xor :
    after (((base.setV 0 0xF0).setV 1 0x3C).setV 15 5) 0x8013 (fun t => (t.getV 0, t.getV 15)) = some (0xCC, 5) := by decide

/-- AL-9, AL-10. -/
theorem test_add_reg :
    after ((base.setV 0 0xFF).setV 1 0x01) 0x8014 (fun t => (t.getV 0, t.getV 15)) = some (0x00, 0x01) ∧
    after (((base.setV 0 0xFE).setV 1 0x01).setV 15 1) 0x8014 (fun t => (t.getV 0, t.getV 15)) = some (0xFF, 0x00) := by decide

/-- AL-12, AL-13, AL-14: the flag is written first. -/
theorem test_add_reg_flag_operand :
    after ((base.setV 15 0xF0).setV 1 0x20) 0x8F14 (fun t => t.getV 15) = some 0x21 ∧
    after ((base.setV 0 0xFF).setV 15 0x05) 0x80F4 (fun t => (t.getV 0, t.getV 15)) = some (0x00, 0x01) ∧
    after (base.setV 15 0x90) 0x8FF4 (fun t => t.getV 15) = some 0x02 := by decide

/-- AL-15, AL-16. -/
theorem test_sub_reg :
    after ((base.setV 0 0x01).setV 1 0x02) 0x8015 (fun t => (t.getV 0, t.getV 15)) = some (0xFF, 0x00) ∧
    after ((base.setV 0 0x07).setV 1 0x07) 0x8015 (fun t => (t.getV 0, t.getV 15)) = some (0x00, 0x01) := by decide

/-- AL-17, AL-18. -/
theorem test_sub_reg_flag_operand :
    after ((base.setV 15 0x10).setV 1 0x01) 0x8F15 (fun t => t.getV 15) = some 0x00 ∧
    after ((base.setV 0 0x10).setV 15 0x20) 0x80F5 (fun t => (t.getV 0, t.getV 15)) = some (0x10, 0x00) := by decide

/-- AL-21, AL-22. -/
theorem test_shift_right :
    after ((base.setV 2 0x05).setV 7 0xFF) 0x8276 (fun t => (t.getV 2, t.getV 15)) = some (0x02, 0x01) ∧
    after (base.setV 15 0x03) 0x8F06 (fun t => t.getV 15) = some 0x00 := by decide

/-- AL-23, AL-26. -/
theorem test_sub_reg_rev :
    after ((base.setV 0 0x02).setV 1 0x01) 0x8017 (fun t => (t.getV 0, t.getV 15)) = some (0xFF, 0x00) ∧
    after ((base.setV 0 0x03).setV 15 0x01) 0x80F7 (fun t => (t.getV 0, t.getV 15)) = some (0xFD, 0x00) := by decide

/-- AL-27, AL-28. -/
theorem test_shift_left :
    after (base.setV 3 0x81) 0x830E (fun t => (t.getV 3, t.getV 15)) = some (0x02, 0x01) ∧
    after (base.setV 15 0x80) 0x8F0E (fun t => t.getV 15) = some 0x02 := by decide

/-- AL-30. -/
theorem test_rand_mask : after { base with env := { quiet with rand := 0xA7 } } 0xC00F (fun t => t.getV 0) = some 0x07 := by
  decide

/-! ### One step: index register and memory (95_test_vectors.md IM) -/

/-- IM-1. -/
theorem test_set_index : after (base.setI 0x1234) 0xA300 State.i = some 0x0300 := by decide

/-- IM-3, IM-4. -/
theorem test_index_add :
    after ((base.setI 0xFFF).setV 2 1) 0xF21E (fun t => (t.i, t.getV 15)) = some (0x1000, 0) ∧
    after ((base.setI 0xFFFF).setV 3 2) 0xF31E State.i = some 0x0001 := by decide

/-- IM-5, IM-6. -/
theorem test_index_set_sprite :
    after (base.setV 0 0x0A) 0xF029 State.i = some 0x0032 ∧ after (base.setV 0 0xFF) 0xF029 State.i = some 0x04FB := by decide

/-- IM-10: the third byte wraps into the font area. -/
theorem test_store_bcd :
    after ((base.setI 0xFFE).setV 2 0x7B) 0xF233 (fun t => (t.readByte 0xFFE, t.readByte 0xFFF, t.readByte 0x000)) =
      some (1, 2, 3) := by decide

/-- IM-12: V0 only, and I is kept. -/
theorem test_register_dump :
    after (((base.setI 0x300).setV 0 0xAA).setV 1 0xBB) 0xF055 (fun t => (t.readByte 0x300, t.readByte 0x301, t.i)) =
      some (0xAA, 0x00, 0x300) := by decide

/-- IM-14: V0 to V2, V3 kept. -/
theorem test_register_load :
    after (((base.setI 0x300).writeBytes 0x300 [1, 5, 6, 9]).setV 3 0x77) 0xF265
      (fun t => (t.getV 0, t.getV 1, t.getV 2, t.getV 3)) = some (1, 5, 6, 0x77) := by decide

/-! ### One step: display (95_test_vectors.md DS) -/

/-- DS-2. -/
theorem test_clear_screen :
    after ((base.setFB (flipPixel clearFB 5 5)).setV 15 1) 0x03E0 (fun t => (pixelAt t.fb 5 5, t.getV 15)) = some (false, 1) := by
  decide

/-- DS-3: the right edge wraps. -/
theorem test_draw_wraps :
    after ((((base.setI 0x300).writeByte 0x300 0xC0).setV 0 0x3F).setV 1 0) 0xD011
      (fun t => (pixelAt t.fb 0 63, pixelAt t.fb 0 0, pixelAt t.fb 0 1, t.getV 15)) = some (true, true, false, 0) := by decide

/-- DS-5: one pixel off, one on, collision. -/
theorem test_draw_collides :
    after ((((base.setI 0x300).writeByte 0x300 0xA0).setFB (flipPixel clearFB 0 0))) 0xD011
      (fun t => (pixelAt t.fb 0 0, pixelAt t.fb 0 2, t.getV 15)) = some (false, true, 1) := by decide

/-! ### One step: input, timers, faults (95_test_vectors.md KT, XF) -/

/-- KT-5: key 0x15 mod 16. -/
theorem test_skip_if_key : after ((base.setV 2 0x15).setKeys 0x0020) 0xE29E State.pc = some 0x204 := by decide

/-- KT-3, KT-4. -/
theorem test_skip_if_not_key :
    after (base.setV 1 5) 0xE1A1 State.pc = some 0x204 ∧ after ((base.setV 1 5).setKeys 0x0020) 0xE1A1 State.pc = some 0x202 := by
  decide

/-- KT-6: a held key is sampled, not taken. -/
theorem test_wait_key :
    after { base with pc := 0x210, keys := 0x0004 } 0xF30A (fun t => (t.status, t.pc, t.getV 3)) =
      some (.waitingKey 3 0x0004, 0x210, 0) := by decide

/-- KT-13: keys 4 and 9 newly pressed; the choice of the environment picks either. -/
theorem test_poll :
    (stepOf { base with pc := 0x210, status := .waitingKey 3 0x0000, env := { quiet with keyWrite := some 0x0210 } }).map
      (fun t => (t.status, t.getV 3, t.pc)) = some (.running, 0x04, 0x212) ∧
    (stepOf { base with pc := 0x210, status := .waitingKey 3 0x0000,
                        env := { quiet with keyWrite := some 0x0210, keyPick := 1 } }).map
      (fun t => t.getV 3) = some 0x09 := by decide

/-- KT-14: a release completes nothing and renews the sample. -/
theorem test_poll_release :
    (stepOf { base with pc := 0x210, status := .waitingKey 3 0x0040, env := { quiet with keyWrite := some 0x0000 } }).map
      (fun t => (t.status, t.pc)) = some (.waitingKey 3 0x0000, 0x210) := by decide

/-- KT-7: DT is read before the tick. -/
theorem test_read_delay :
    after { base with dt := 0x20, env := ticking } 0xF507 (fun t => (t.getV 5, t.dt)) = some (0x20, 0x1F) := by decide

/-- KT-9: the tick follows the handler. -/
theorem test_set_delay : after { base.setV 0 5 with env := ticking } 0xF015 State.dt = some 0x04 := by decide

/-- KT-10. -/
theorem test_set_sound : after { base.setV 0 0x10 with dt := 3 } 0xF018 (fun t => (t.st, t.dt)) = some (0x10, 3) := by decide

/-- KT-11: a timer saturates at zero. -/
theorem test_tick_saturates :
    after { base with dt := 1, env := ticking } 0x0000 (fun t => (t.dt, t.st, t.pc)) = some (0, 0, 0x202) := by decide

/-- XF-1. -/
theorem test_decode_failure :
    after { base with dt := 3, env := ticking } 0x8008 (fun t => (t.status, t.ir, t.dt, t.pc)) =
      some (.halted (.decodeFailure 0x200 0x8008), 0x8008, 3, 0x200) := by decide

/-- XF-4: no step exists from a halted state. -/
theorem test_halted_is_final : stepOf { base with status := .halted (.decodeFailure 0x200 0x8008) } = none := by decide

/-- RS-2, RS-3, RS-4: the limits of the images. -/
theorem test_boot_limits :
    (State.boot 0x1E0 0x200 (List.replicate 79 0) []).toOption = none ∧
    (State.boot 0x1E0 0x1E1 (List.replicate 80 0) []).toOption = none := by decide

/-- RS-1: the ROM lies at 0x200, big-endian words as given. -/
theorem test_boot_rom :
    (State.boot 0x1E0 0x200 (List.replicate 80 0xF0) [0x12, 0x00]).toOption.map
      (fun s => (s.pc, s.sp, s.readWord 0x200, s.readByte 0x04F, s.readByte 0x050)) =
      some (0x200, 0x1E0, 0x1200, 0xF0, 0x00) := by decide

/-- The reset state is the one the reset procedure builds from an empty ROM (notes/assumptions/1.md, 2.md). -/
theorem test_reset_is_boot :
    State.boot Config.stackBase Config.stackLimit Config.font.toList [] = .ok State.reset := by
  have h : Config.font.toList.length = 80 := by simp
  unfold State.boot
  rw [if_pos (by decide), dif_pos h, if_pos (by decide)]
  rfl

/-- RS-4: one byte over the limit is refused whatever the bytes are, and the limit itself is accepted. -/
theorem test_boot_rom_limit (rom : List Byte) :
    (rom.length = 3584 → ∃ s, State.boot 0x1E0 0x200 (List.replicate 80 0) rom = .ok s) ∧
    (rom.length = 3585 → State.boot 0x1E0 0x200 (List.replicate 80 0) rom = .error .romTooLong) := by
  constructor <;> intro h <;> unfold State.boot <;> rw [if_pos (by decide), dif_pos (by decide)]
  · exact ⟨_, if_pos (by simp [h])⟩
  · exact if_neg (by simp [h])

/-- Where every covered pixel was set before it, the first draw unsets them all, and the second reports no collision: the
counterexample to the flag clause of 43_display.md R195 (notes/assumptions/19.md). -/
theorem test_second_draw_without_collision :
    (after (((base.setI 0x300).writeByte 0x300 0x80).setFB (flipPixel clearFB 0 0)) 0xD011
        (fun t => (pixelAt t.fb 0 0, t.getV 15))) = some (false, 1) ∧
    ((stepOf ((((base.setI 0x300).writeByte 0x300 0x80).setFB (flipPixel clearFB 0 0)).withFetchWord 16 0xD011)).bind
        fun t => after { t with env := quiet } 0xD011 (fun u => (pixelAt u.fb 0 0, u.getV 15))) = some (true, 0) := by
  decide

/-! ### Witnesses: for each statement with hypotheses, a state and operands that meet them, each clause at a boundary -/

/-- The state that fetches `w` next. -/
def fetching (w : Nat) : State := base.withFetchWord 16 w

theorem not_ok_of_error {w : Word} {r : Reject} (h : decode w = .error r) : ∀ i, decode w ≠ .ok i := by
  intro i e; rw [h] at e; cases e

theorem exists_of_stepOf {α : Type} {s : State} {f : State → α} {v : α} (h : (stepOf s).map f = some v) :
    ∃ t, step s = .next t ∧ f t = v := by
  unfold stepOf at h
  cases e : step s with
  | next t => exact ⟨t, rfl, by simpa [e] using h⟩
  | fault r => simp [e] at h
  | refused r => simp [e] at h

/-- O1: the boundary of the excluded low bytes. -/
theorem witness_DecodeOfEncodeIsIdentity :
    (Instr.legacyCall 0x0ED).wellFormed = true ∧ (Instr.legacyCall 0xFEF).wellFormed = true ∧
    (Instr.drawSprite 15 15 15).wellFormed = true := by decide

/-- O2: a word with ignored bits set, and one without. -/
theorem witness_DecodedInstructionDeterminesUsedBits :
    decode 0x0FE0 = .ok .clearScreen ∧ decode 0x9ABF = .ok (.skipIfNeReg 0xA 0xB) ∧ decode 0x0FFF = .ok (.legacyCall 0xFFF) :=
  by decide

/-- O3: the words on both sides of each of the three clauses. -/
theorem witness_UnrecognizedWordsAreExactly :
    (¬∃ i, decode 0x8FFD = .ok i) ∧ (∃ i, decode 0x8FFE = .ok i) ∧ (¬∃ i, decode 0x8FFF = .ok i) ∧
    (∃ i, decode 0x8007 = .ok i) ∧ (¬∃ i, decode 0x8008 = .ok i) ∧
    (¬∃ i, decode 0xE09D = .ok i) ∧ (∃ i, decode 0xE09E = .ok i) ∧ (∃ i, decode 0xEFA1 = .ok i) ∧
    (¬∃ i, decode 0xF066 = .ok i) ∧ (∃ i, decode 0xF065 = .ok i) ∧ (¬∃ i, decode 0xFFFF = .ok i) := by
  refine ⟨?_, ⟨_, rfl⟩, ?_, ⟨_, rfl⟩, ?_, ?_, ⟨_, rfl⟩, ⟨_, rfl⟩, ?_, ⟨_, rfl⟩, ?_⟩ <;>
    exact fun ⟨i, h⟩ => not_ok_of_error (by rfl) i h

/-- O5: same family at both ends of its range, and a word of another family (of several operations) beside it. -/
theorem witness_SingleOperationFamiliesIgnoreLowBits :
    (0x5000#16).extractLsb' 12 4 = (0x5FFF#16).extractLsb' 12 4 ∧
    (0x5000#16).extractLsb' 12 4 ∉ [0x0#4, 0x8#4, 0xE#4, 0xF#4] ∧
    (0x7FFF#16).extractLsb' 12 4 ∉ [0x0#4, 0x8#4, 0xE#4, 0xF#4] ∧
    (0x8000#16).extractLsb' 12 4 ≠ (0x7FFF#16).extractLsb' 12 4 := by decide

/-- O7: at the top of memory the second stored byte is at 0x000, also under its unreduced address 0x1000, and the bytes
beside the two are outside. -/
theorem witness_WordAccessIsBigEndian :
    (0x1FFF % 0x1000 = 0xFFF % 0x1000 ∧ 0x000 % 0x1000 = (0xFFF + 1) % 0x1000 ∧ 0x1000 % 0x1000 = (0xFFF + 1) % 0x1000) ∧
    stored 0xFFF 2 0xFFF ∧ stored 0xFFF 2 0x000 ∧ ¬stored 0xFFF 2 0x001 ∧ ¬stored 0xFFF 2 0xFFE := by
  unfold stored; decide

/-- A word written at 0xFFF continues at 0x000, and an address past 0xFFF reads what its reduction reads (20_memory.md R62,
R67). -/
theorem test_word_access_wraps :
    let t := base.writeWord 0xFFF 0xABCD
    t.readByte 0xFFF = 0xAB ∧ t.readByte 0x000 = 0xCD ∧ t.readByte 0x1000 = 0xCD ∧ t.readByte 0x1FFF = 0xAB ∧
      t.readByte 0x001 = 0x00 := by decide

/-- O8: an instruction that completes, and one that faults. -/
theorem witness_StepRunsDecodedInstruction :
    ((fetching 0x6342).status = .running ∧ decode (fetching 0x6342).nextWord = .ok (.moveImm 3 0x42) ∧
      ∃ t, exec (.moveImm 3 0x42) { fetching 0x6342 with keys := (fetching 0x6342).latched, ir := (fetching 0x6342).nextWord } =
        .next t) ∧
    ((fetching 0x00EE).status = .running ∧ decode (fetching 0x00EE).nextWord = .ok .ret ∧
      ∃ t, exec .ret { fetching 0x00EE with keys := (fetching 0x00EE).latched, ir := (fetching 0x00EE).nextWord } =
        .next t) := by
  refine ⟨⟨rfl, by decide, _, rfl⟩, rfl, by decide, ?_⟩
  unfold exec execRet
  exact ⟨_, if_pos (by decide)⟩

/-- O9. -/
theorem witness_UnrecognizedWordHalts :
    (fetching 0x8008).status = .running ∧ ∀ i, decode (fetching 0x8008).nextWord ≠ .ok i :=
  ⟨rfl, not_ok_of_error (r := .unrecognized 0x8008) (by decide)⟩

/-- O10. -/
theorem witness_HaltedStateIsFinal :
    ({ base with status := .halted (.stackOverflow 0x200 0x2300) } : State).status = .halted (.stackOverflow 0x200 0x2300) :=
  rfl

/-- O11, O12: each of the three faults is reached, the stack faults at the first value that raises them. -/
theorem witness_FaultingStepIsPrecise :
    (∃ t, step (fetching 0x8008) = .next t ∧ t.status = .halted (.decodeFailure 0x200 0x8008)) ∧
    (∃ t, step { fetching 0x2300 with sp := 0x1FF } = .next t ∧ t.status = .halted (.stackOverflow 0x200 0x2300)) ∧
    (∃ t, step { fetching 0x00EE with sp := 0x1E1 } = .next t ∧ t.status = .halted (.stackUnderflow 0x200 0x00EE)) :=
  ⟨exists_of_stepOf (by decide), exists_of_stepOf (by decide), exists_of_stepOf (by decide)⟩

/-- O13: a held key and a released key are no new keys. -/
theorem witness_PollWithoutNewKeyKeepsWaiting :
    let s : State := { base with status := .waitingKey 3 0x8001, env := { quiet with keyWrite := some 0x8000 } }
    s.status = .waitingKey 3 0x8001 ∧ ∀ k, ¬newlyPressed 0x8001 s.latched k := by
  unfold newlyPressed; decide

/-- O14: keys 0 and 15, the ends of the latch. -/
theorem witness_PollWithNewKeyCompletes :
    let s : State := { base with status := .waitingKey 15 0x0010, env := { quiet with keyWrite := some 0x8011 } }
    s.status = .waitingKey 15 0x0010 ∧ newlyPressed 0x0010 s.latched 0 ∧ newlyPressed 0x0010 s.latched 15 ∧
      ¬newlyPressed 0x0010 s.latched 4 := by
  unfold newlyPressed; decide

/-- O15: a step that faults, one that writes each timer under a tick, one that writes neither, and one of a waiting engine. -/
theorem witness_TimersTickOncePerStep :
    (∃ t, step (fetching 0x8008) = .next t ∧ t.faultFree = false) ∧
    ((∃ t, step { fetching 0xF015 with env := ticking } = .next t ∧ t.faultFree = true) ∧
      decode (fetching 0xF015).nextWord = .ok (.setDelay 0)) ∧
    ((∃ t, step { fetching 0xFF18 with env := ticking } = .next t ∧ t.faultFree = true) ∧
      decode (fetching 0xFF18).nextWord = .ok (.setSound 15)) ∧
    ((∃ t, step { fetching 0x1200 with dt := 1, env := ticking } = .next t ∧ (t.faultFree, t.dt) = (true, 0)) ∧
      decode (fetching 0x1200).nextWord = .ok (.jump 0x200)) ∧
    (∃ t, step { base with status := .waitingKey 0 0, st := 1, env := ticking } = .next t ∧ (t.faultFree, t.st) = (true, 0)) :=
  ⟨exists_of_stepOf (by decide), ⟨exists_of_stepOf (by decide), by decide⟩, ⟨exists_of_stepOf (by decide), by decide⟩,
    ⟨exists_of_stepOf (by decide), by decide⟩, exists_of_stepOf (by decide)⟩

/-- O57: a step that runs read-delay under a tick, on a timer at its last count. -/
theorem witness_ReadDelayCopiesTimer :
    ({ fetching 0xFF07 with dt := 1, env := ticking } : State).status = .running ∧
    (∃ t, step { fetching 0xFF07 with dt := 1, env := ticking } = .next t ∧ (t.getV 15, t.dt) = (1, 0)) ∧
    decode ({ fetching 0xFF07 with dt := 1, env := ticking } : State).nextWord = .ok (.readDelay 15) :=
  ⟨rfl, exists_of_stepOf (by decide), by decide⟩

/-- O16: a step with a latch write and one without. -/
theorem witness_LatchChangesOnlyByHostWrite :
    (∃ t, step { fetching 0x1200 with env := { quiet with keyWrite := some 0x8001 } } = .next t ∧ t.keys = 0x8001) ∧
    (∃ t, step { fetching 0x1200 with keys := 0x0004 } = .next t ∧ t.keys = 0x0004) :=
  ⟨exists_of_stepOf (by decide), exists_of_stepOf (by decide)⟩

/-- O17. -/
theorem witness_StepKeepsParameters :
    ∃ t, step (fetching 0x1200) = .next t ∧ t.params.stackLimit = base.params.stackLimit := exists_of_stepOf (by decide)

/-- O18: a pixel changed by a clear, and one changed by a draw. -/
theorem witness_FramebufferChangesOnlyByClearAndDraw :
    (∃ t, step { fetching 0x00E0 with fb := flipPixel clearFB 31 63 } = .next t ∧
      pixelAt t.fb 31 63 ≠ pixelAt ({ fetching 0x00E0 with fb := flipPixel clearFB 31 63 } : State).fb 31 63) ∧
    (∃ t, step ((fetching 0xD011).writeByte 0 0x80) = .next t ∧
      pixelAt t.fb 0 0 ≠ pixelAt ((fetching 0xD011).writeByte 0 0x80).fb 0 0) := by
  refine ⟨?_, ?_⟩
  · obtain ⟨t, h, e⟩ := exists_of_stepOf (s := { fetching 0x00E0 with fb := flipPixel clearFB 31 63 })
      (f := fun t => pixelAt t.fb 31 63) (v := false) (by decide)
    exact ⟨t, h, by rw [e]; decide⟩
  · obtain ⟨t, h, e⟩ := exists_of_stepOf (s := (fetching 0xD011).writeByte 0 0x80)
      (f := fun t => pixelAt t.fb 0 0) (v := true) (by decide)
    exact ⟨t, h, by rw [e]; decide⟩

/-- O19: a state that meets the invariant, SP at the top of its region and a cell listed, and steps. -/
theorem witness_StepKeepsMachineInvariant :
    Inv ({ fetching 0x00EE with sp := 0x200, pc := 0xFFF } : State) ∧
      ∃ t, step ({ fetching 0x00EE with sp := 0x200, pc := 0xFFF } : State) = .next t ∧ t.pc = 0x001 :=
  ⟨⟨by decide, by decide, by decide, by decide, by decide, by decide⟩, exists_of_stepOf (by decide)⟩

/-- O21, O22: a machine the reset procedure builds, at the smallest admissible region. -/
theorem witness_BootMeetsMachineInvariant :
    ∃ s, State.boot 0x050 0x052 (List.replicate 80 0xFF) [0x12, 0x00] = .ok s := by
  unfold State.boot
  exact ⟨_, by rw [if_pos (by decide), dif_pos (by decide), if_pos (by decide)]⟩

/-- O23: regions at each bound, and one step over it. -/
theorem witness_BootSucceedsExactlyOnGoodImages :
    (State.boot 0x050 0x052 (List.replicate 80 0) []).toOption ≠ none ∧
    (State.boot 0x04F 0x052 (List.replicate 80 0) []).toOption = none ∧
    (State.boot 0x050 0x051 (List.replicate 80 0) []).toOption = none ∧
    (State.boot 0x1FE 0x200 (List.replicate 80 0) []).toOption ≠ none ∧
    (State.boot 0x1FE 0x201 (List.replicate 80 0) []).toOption = none ∧
    (State.boot 0x1FE 0x200 (List.replicate 81 0) []).toOption = none := by decide

/-- O24: a call and a return that fault from a running state. -/
theorem witness_EveryInstructionWritesOnlyItsTargets :
    (base.faultFree = true ∧ ∃ t, exec .ret base = .next t ∧ t.faultFree = false) ∧
    ((({ base with sp := 0x1FF } : State)).faultFree = true ∧
      ∃ t, exec (.call 0x300) { base with sp := 0x1FF } = .next t ∧ t.faultFree = false) := by
  unfold exec execRet execCall
  exact ⟨⟨rfl, _, if_pos (by decide), rfl⟩, rfl, _, if_pos (by decide), rfl⟩

/-- O25: the register next to VF, and a next state of each operation. -/
theorem witness_FlagIsZeroOrOne :
    (14 : Nibble) ≠ vf ∧ (∃ t, exec (.drawSprite 15 15 0) base = .next t) ∧ (∃ t, exec (.addReg 14 15) base = .next t) ∧
    (∃ t, exec (.subReg 14 15) base = .next t) ∧ (∃ t, exec (.subRegRev 14 15) base = .next t) ∧
    (∃ t, exec (.shiftRight 14 15) base = .next t) ∧ ∃ t, exec (.shiftLeft 14 15) base = .next t :=
  ⟨by decide, ⟨_, rfl⟩, ⟨_, rfl⟩, ⟨_, rfl⟩, ⟨_, rfl⟩, ⟨_, rfl⟩, ⟨_, rfl⟩⟩

/-- O26: the empty stack, and the last entry of the region. -/
theorem witness_CallThenReturnComesBack :
    (base.params.stackBase.toNat ≤ base.sp.toNat ∧ base.sp.toNat + 2 ≤ base.params.stackLimit.toNat) ∧
    (base.params.stackBase.toNat ≤ ({ base with sp := 0x1FE } : State).sp.toNat ∧
      ({ base with sp := 0x1FE } : State).sp.toNat + 2 ≤ base.params.stackLimit.toNat) := by decide

/-- The call and return statements: the last SP that has room and the first that has none; the first SP that holds an entry
and the last that holds none. -/
theorem witness_CallAndReturn :
    ({ base with sp := 0x1FE } : State).sp.toNat + 2 ≤ base.params.stackLimit.toNat ∧
    ({ base with sp := 0x1FF } : State).sp.toNat + 2 > base.params.stackLimit.toNat ∧
    base.params.stackBase.toNat + 2 ≤ ({ base with sp := 0x1E2 } : State).sp.toNat ∧
    ({ base with sp := 0x1E1 } : State).sp.toNat < base.params.stackBase.toNat + 2 := by decide

/-- legacy-call: the low bytes beside the two the row excludes. -/
theorem witness_LegacyCallIsInert :
    (Instr.legacyCall 0x0DF).wellFormed = true ∧ (Instr.legacyCall 0x0E0).wellFormed = false ∧
    (Instr.legacyCall 0x0EF).wellFormed = true ∧ (Instr.legacyCall 0xFEE).wellFormed = false := by decide

/-- register-dump and register-load: the last register moved, and the first that is not. -/
theorem witness_RegisterBlocks :
    ((7 : Nibble).toNat ≤ (7 : Nibble).toNat ∧ ¬(8 : Nibble).toNat ≤ (7 : Nibble).toNat) ∧
    stored 0xFF8 8 0xFFF ∧ ¬stored 0xFF8 8 0x000 := by
  unfold stored; decide

/-- draw-sprite: a covered pixel at the wrapped corner, a pixel beside it, a height of 0; a draw that hits and one that
does not. -/
theorem witness_DrawSprite :
    let s : State := ((base.writeByte 0 0x03).setV 0 58).setV 1 31
    spriteCovers s 0 1 1 31 0 ∧ ¬spriteCovers s 0 1 1 31 2 ∧ ¬spriteCovers s 0 1 0 31 0 ∧
      (∃ r c, spriteCovers (s.setFB (flipPixel clearFB 31 0)) 0 1 1 r c ∧
        pixelAt (s.setFB (flipPixel clearFB 31 0)).fb r c = true) ∧
      pixelAt s.fb 31 0 = false := by
  refine ⟨⟨0, by decide, 6, by decide, by decide⟩, ?_, ?_, ⟨31, 0, ⟨0, by decide, 6, by decide, by decide⟩, by decide⟩, by decide⟩
  · unfold spriteCovers; decide
  · unfold spriteCovers; decide

/-- O27: a first draw that turns its one pixel on, and one that turns it off; both keep the coordinates. -/
theorem witness_DrawTwiceRestoresFramebuffer :
    let s : State := base.writeByte 0 0x80
    (∃ t u, exec (.drawSprite 0 1 1) s = .next t ∧ t.getV 0 = s.getV 0 ∧ t.getV 1 = s.getV 1 ∧
      exec (.drawSprite 0 1 1) t = .next u ∧ ∃ r c, spriteCovers s 0 1 1 r c ∧ pixelAt s.fb r c = false) ∧
    ∃ t u, exec (.drawSprite 0 1 1) (s.setFB (flipPixel clearFB 0 0)) = .next t ∧ t.getV 0 = s.getV 0 ∧
      t.getV 1 = s.getV 1 ∧ exec (.drawSprite 0 1 1) t = .next u ∧
      pixelAt (s.setFB (flipPixel clearFB 0 0)).fb 0 0 = true ∧ ∀ k < 8, s.readByte 0 = 0x80 ∧ ((0x80 : Byte).getLsbD (7 - k) = (k == 0)) :=
  ⟨⟨_, _, rfl, by decide, by decide, rfl, 0, 0, ⟨0, by decide, 0, by decide, by decide⟩, by decide⟩,
    _, _, rfl, by decide, by decide, rfl, by decide, by decide⟩

end Sys2Proof.Tests
end

/-! ### Frames: one rule per state operation

Each rule extends a frame by one update whose target is among the components the frame lets change. The frame of an
instruction is then the chain of its own updates, read off its meaning. -/

namespace Sys2Proof

open Sys2Proof.Machine

section FrameRules

variable {s t : State} {w : Comp → Prop}

theorem Frame.refl (s : State) (w : Comp → Prop) : Frame s s w := fun c _ => by cases c <;> rfl

theorem Frame.setV (h : Frame s t w) {x : Nibble} {b : Byte} (hw : w (.reg x)) : Frame s (t.setV x b) w :=
  fun c hc => by
  cases c with
  | reg y =>
    have hy : y ≠ x := fun e => hc (e ▸ hw)
    exact (State.getV_setV_ne t b hy).trans (h _ hc)
  | _ => exact h _ hc

theorem Frame.setI (h : Frame s t w) {v : Word} (hw : w .index) : Frame s (t.setI v) w := fun c hc => by
  cases c with
  | index => exact absurd hw hc
  | _ => exact h _ hc

theorem Frame.setPC (h : Frame s t w) {n : Nat} (hw : w .pc) : Frame s (t.setPC n) w := fun c hc => by
  cases c with
  | pc => exact absurd hw hc
  | _ => exact h _ hc

theorem Frame.setSP (h : Frame s t w) {v : Word} (hw : w .sp) : Frame s (t.setSP v) w := fun c hc => by
  cases c with
  | sp => exact absurd hw hc
  | _ => exact h _ hc

theorem Frame.setDT (h : Frame s t w) {b : Byte} (hw : w .dt) : Frame s (t.setDT b) w := fun c hc => by
  cases c with
  | dt => exact absurd hw hc
  | _ => exact h _ hc

theorem Frame.setST (h : Frame s t w) {b : Byte} (hw : w .st) : Frame s (t.setST b) w := fun c hc => by
  cases c with
  | st => exact absurd hw hc
  | _ => exact h _ hc

theorem Frame.setStatus (h : Frame s t w) {q : Status} (hw : w .status) : Frame s (t.setStatus q) w := fun c hc => by
  cases c with
  | status => exact absurd hw hc
  | _ => exact h _ hc

theorem Frame.emitLog (h : Frame s t w) {nnn : Addr} (hw : w .log) : Frame s (t.emitLog nnn) w := fun c hc => by
  cases c with
  | log => exact absurd hw hc
  | _ => exact h _ hc

theorem Frame.setFB (h : Frame s t w) {fb : Framebuffer} (hw : ∀ r c, w (.pixel r c)) : Frame s (t.setFB fb) w :=
  fun c hc => by
  cases c with
  | pixel r k => exact absurd (hw r k) hc
  | _ => exact h _ hc

theorem Frame.writeByte (h : Frame s t w) {a : Nat} {b : Byte} (hw : ∀ d, d % 0x1000 = a % 0x1000 → w (.byte d)) :
    Frame s (t.writeByte a b) w := fun c hc => by
  cases c with
  | byte d =>
    have hd : ¬d % 0x1000 = a % 0x1000 := fun e => hc (hw d e)
    exact (State.readByte_writeByte t a d b).trans ((if_neg hd).trans (h _ hc))
  | _ => exact h _ hc

/-! The composite operations, each the chain of the operations it is made of. -/

theorem Frame.advance2 (h : Frame s t w) (hw : w .pc) : Frame s t.advance2 w := h.setPC hw

theorem Frame.skipIf (h : Frame s t w) {cond : Bool} (hw : w .pc) : Frame s (t.skipIf cond) w := by
  rw [State.skipIf_eq]
  exact h.setPC hw

theorem Frame.flagThen (h : Frame s t w) {x : Nibble} {f : Byte} {r : State → Byte} (hx : w (.reg x))
    (hf : w (.reg vf)) : Frame s (t.flagThen x f r) w :=
  (h.setV hf).setV hx

theorem Frame.writeWord (h : Frame s t w) {a : Nat} {v : Word} (hw : ∀ d, stored a 2 d → w (.byte d)) :
    Frame s (t.writeWord a v) w :=
  (h.writeByte fun d hd => hw d ⟨0, by decide, hd⟩).writeByte fun d hd => hw d ⟨1, by decide, hd⟩

theorem Frame.dumpRegs (h : Frame s t w) {k : Nat} (hw : ∀ d, stored t.i.toNat k d → w (.byte d)) :
    Frame s (t.dumpRegs k) w := by
  induction k with
  | zero => exact h
  | succ k ih =>
    have before : Frame s (t.dumpRegs k) w := ih fun d ⟨j, hj, e⟩ => hw d ⟨j, by omega, e⟩
    exact before.writeByte fun d hd => hw d ⟨k, by omega, hd⟩

theorem Frame.loadRegs (h : Frame s t w) {k : Nat} (hw : ∀ j < k, w (.reg (BitVec.ofNat 4 j))) :
    Frame s (t.loadRegs k) w := by
  induction k with
  | zero => exact h
  | succ k ih => exact (ih fun j hj => hw j (by omega)).setV (hw k (by omega))

end FrameRules

/-! ### What every instruction answers -/

section Exec

variable {s t : State} {i : Instr}

/-- return on an empty stack (40_control_flow.md R131). -/
theorem exec_ret_of_empty (h : s.sp.toNat < s.params.stackBase.toNat + 2) :
    exec .ret s = .next (s.raise (.stackUnderflow s.pc s.ir)) := if_pos h

/-- return with an entry on the stack (40_control_flow.md R131). -/
theorem exec_ret_of_entry (h : ¬s.sp.toNat < s.params.stackBase.toNat + 2) :
    exec .ret s = .next ((s.setSP (s.sp - 2)).setPC (s.readWord (s.sp.toNat - 2)).toNat) := if_neg h

/-- call on a full stack (40_control_flow.md R133). -/
theorem exec_call_of_full {nnn : Addr} (h : s.sp.toNat + 2 > s.params.stackLimit.toNat) :
    exec (.call nnn) s = .next (s.raise (.stackOverflow s.pc s.ir)) := if_pos h

/-- call with room on the stack (40_control_flow.md R133). -/
theorem exec_call_of_room {nnn : Addr} (h : ¬s.sp.toNat + 2 > s.params.stackLimit.toNat) :
    exec (.call nnn) s =
      .next (((s.writeWord s.sp.toNat (BitVec.ofNat 16 ((s.pc.toNat + 2) % Config.memSize))).setSP (s.sp + 2)).setPC
        nnn.toNat) := if_neg h

/-- return writes PC and SP, or on an empty stack the status. -/
theorem exec_ret_frame (s : State) : ∃ t, exec .ret s = .next t ∧ Frame s t (mayWrite s .ret) := by
  have start := Frame.refl s (mayWrite s .ret)
  by_cases h : s.sp.toNat < s.params.stackBase.toNat + 2
  · exact ⟨_, exec_ret_of_empty h, start.setStatus (.inr (.inr rfl))⟩
  · exact ⟨_, exec_ret_of_entry h, (start.setSP (.inr (.inl rfl))).setPC (.inl rfl)⟩

/-- call writes two stack bytes, PC and SP, or on a full stack the status. -/
theorem exec_call_frame (s : State) (nnn : Addr) :
    ∃ t, exec (.call nnn) s = .next t ∧ Frame s t (mayWrite s (.call nnn)) := by
  have start := Frame.refl s (mayWrite s (.call nnn))
  by_cases h : s.sp.toNat + 2 > s.params.stackLimit.toNat
  · exact ⟨_, exec_call_of_full h, start.setStatus (.inr (.inr (.inl rfl)))⟩
  · have pushed := start.writeWord (a := s.sp.toNat) (v := BitVec.ofNat 16 ((s.pc.toNat + 2) % Config.memSize))
      fun d hd => .inr (.inr (.inr ⟨d, rfl, hd⟩))
    exact ⟨_, exec_call_of_room h, (pushed.setSP (.inr (.inl rfl))).setPC (.inl rfl)⟩

/-- Every instruction answers a next state, framed by its write table: each update of its meaning has its target there. -/
theorem exec_frame (i : Instr) (s : State) : ∃ t, exec i s = .next t ∧ Frame s t (mayWrite s i) := by
  have start := Frame.refl s (mayWrite s i)
  cases i with
  | ret => exact exec_ret_frame s
  | call nnn => exact exec_call_frame s nnn
  | legacyCall => exact ⟨_, rfl, (start.emitLog (.inr rfl)).advance2 (.inl rfl)⟩
  | clearScreen => exact ⟨_, rfl, (start.setFB fun r c => .inr ⟨r, c, rfl⟩).advance2 (.inl rfl)⟩
  | drawSprite =>
    exact ⟨_, rfl, ((start.setFB fun r c => .inr (.inr ⟨r, c, rfl⟩)).setV (.inr (.inl rfl))).advance2 (.inl rfl)⟩
  | jump | jumpOffset => exact ⟨_, rfl, start.setPC rfl⟩
  | skipIfEqImm | skipIfNeImm | skipIfEqReg | skipIfNeReg | skipIfKey | skipIfNotKey =>
    exact ⟨_, rfl, start.skipIf rfl⟩
  | moveImm | addImm | moveReg | orReg | andReg | xorReg | randMask | readDelay =>
    exact ⟨_, rfl, (start.setV (.inr rfl)).advance2 (.inl rfl)⟩
  | addReg | subReg | shiftRight | subRegRev | shiftLeft =>
    exact ⟨_, rfl, (start.flagThen (.inr (.inl rfl)) (.inr (.inr rfl))).advance2 (.inl rfl)⟩
  | setIndex | indexAdd | indexSetSprite => exact ⟨_, rfl, (start.setI (.inr rfl)).advance2 (.inl rfl)⟩
  | waitKey => exact ⟨_, rfl, start.setStatus rfl⟩
  | setDelay => exact ⟨_, rfl, (start.setDT (.inr rfl)).advance2 (.inl rfl)⟩
  | setSound => exact ⟨_, rfl, (start.setST (.inr rfl)).advance2 (.inl rfl)⟩
  | storeBcd x =>
    have inBlock (k : Nat) (hk : k < 3) (d : Nat) (hd : d % 0x1000 = s.indexAddr k % 0x1000) :
        mayWrite s (.storeBcd x) (.byte d) := .inr ⟨d, rfl, k, hk, hd⟩
    exact ⟨_, rfl, (((start.writeByte (inBlock 0 (by decide))).writeByte (inBlock 1 (by decide))).writeByte
      (inBlock 2 (by decide))).advance2 (.inl rfl)⟩
  | registerDump => exact ⟨_, rfl, (start.dumpRegs fun d hd => .inr ⟨d, rfl, hd⟩).advance2 (.inl rfl)⟩
  | registerLoad x =>
    have inBlock (j : Nat) (hj : j < x.toNat + 1) : (BitVec.ofNat 4 j).toNat ≤ x.toNat := by
      rw [BitVec.toNat_ofNat]
      omega
    exact ⟨_, rfl, (start.loadRegs fun j hj => .inr ⟨_, rfl, inBlock j hj⟩).advance2 (.inl rfl)⟩

/-- What an instruction answers is framed by its write table. -/
theorem frame_of_exec (h : exec i s = .next t) : Frame s t (mayWrite s i) := by
  obtain ⟨u, hu, frame⟩ := exec_frame i s
  obtain rfl : t = u := Host.Outcome.next.inj (h.symm.trans hu)
  exact frame

/-- The instructions whose write table holds the status (60_exceptions.md R231, 44_input_timers.md R213). -/
theorem mayWrite_status : mayWrite s i .status ↔ i = .ret ∨ (∃ nnn, i = .call nnn) ∨ ∃ x, i = .waitKey x := by
  cases i <;> simp [mayWrite]

/-- The only instructions that halt the engine are call on a full stack and return on an empty one. -/
theorem exec_halts_only_on_stack_fault (h : exec i s = .next t) (hs : s.faultFree = true) (ht : t.faultFree = false) :
    ((∃ nnn, i = .call nnn) ∧ s.sp.toNat + 2 > s.params.stackLimit.toNat) ∨
      (i = .ret ∧ s.sp.toNat < s.params.stackBase.toNat + 2) := by
  have changed : t.status ≠ s.status := fun e => by simp [State.faultFree_of_status e, hs] at ht
  have listed : mayWrite s i .status := by_contra fun hn => changed (frame_of_exec h .status hn)
  obtain rfl | ⟨nnn, rfl⟩ | ⟨x, rfl⟩ := mayWrite_status.mp listed
  · refine .inr ⟨rfl, by_contra fun hentry => ?_⟩
    cases (exec_ret_of_entry hentry).symm.trans h
    exact changed rfl
  · refine .inl ⟨⟨nnn, rfl⟩, by_contra fun hroom => ?_⟩
    cases (exec_call_of_room hroom).symm.trans h
    exact changed rfl
  · -- wait-key leaves the engine waiting, which is no halt
    cases h
    cases ht

end Exec

/-- Settles O24: the frame is the chain of the instruction's own updates, and an instruction whose table does not hold the
status cannot halt. -/
theorem everyInstructionWritesOnlyItsTargets : Obligations.EveryInstructionWritesOnlyItsTargets := fun i s => by
  obtain ⟨t, ht, frame⟩ := exec_frame i s
  exact ⟨t, ht, frame, exec_halts_only_on_stack_fault ht⟩

end Sys2Proof

/-! ### What a step can do, said once -/

namespace Sys2Proof

open Sys2Proof.Machine

section StepFrame

variable {s t u : State} {w w' : Comp → Prop} {i : Instr}

/-- An UNRECOGNIZED word raises DecodeFailure after the fetch (30_encoding.md R112). -/
theorem runInstr_of_unrecognized {e : Reject} (h : decode s.nextWord = .error e) :
    runInstr s = .next (s.fetch.raise (.decodeFailure s.pc s.nextWord)) := by
  have fetched : decode s.fetch.ir = .error e := h
  simp only [runInstr, fetched]
  rfl

/-- A recognized word runs its instruction after the fetch (30_encoding.md R109). -/
theorem runInstr_of_decode (h : decode s.nextWord = .ok i) : runInstr s = exec i s.fetch := by
  have fetched : decode s.fetch.ir = .ok i := h
  simp only [runInstr, fetched]

/-- A step that answers a next state polled a blocked wait-key, halted on an UNRECOGNIZED word, or ran an instruction
(30_encoding.md R109). -/
theorem step_cases (h : step s = .next t) :
    (∃ xw prev, s.status = .waitingKey xw prev ∧ t = (s.hostWrite.poll xw prev).finish) ∨
      (s.status = .running ∧ (∀ i, decode s.nextWord ≠ .ok i) ∧
        t = (s.hostWrite.fetch.raise (.decodeFailure s.pc s.nextWord)).finish) ∨
      ∃ i u, s.status = .running ∧ decode s.nextWord = .ok i ∧ exec i s.hostWrite.fetch = .next u ∧ t = u.finish := by
  cases hs : s.status with
  | halted f => cases (step_halted s hs).symm.trans h
  | waitingKey xw prev =>
    cases (step_waiting s hs).symm.trans h
    exact .inl ⟨xw, prev, rfl, rfl⟩
  | running =>
    obtain ⟨u, hu, rfl⟩ := finishOutcome_next.mp ((step_running s hs).symm.trans h)
    cases hd : decode s.nextWord with
    | error e =>
      cases (runInstr_of_unrecognized (s := s.hostWrite) hd).symm.trans hu
      exact .inr (.inl ⟨rfl, nofun, rfl⟩)
    | ok i => exact .inr (.inr ⟨i, u, rfl, rfl, (runInstr_of_decode (s := s.hostWrite) hd).symm.trans hu, rfl⟩)

theorem Frame.trans (h : Frame s t w) (h' : Frame t u w) : Frame s u w := fun c hc => by
  cases c <;> exact (h' _ hc).trans (h _ hc)

theorem Frame.mono (h : Frame s t w) (hw : ∀ c, w c → w' c) : Frame s t w' := fun c hc => h c fun hwc => hc (hw c hwc)

theorem Frame.setIR (h : Frame s t w) {v : Word} (hw : w .ir) : Frame s (t.setIR v) w := fun c hc => by
  cases c with
  | ir => exact absurd hw hc
  | _ => exact h _ hc

theorem Frame.poll (h : Frame s t w) {xw : Nibble} {prev : Keys} (hstatus : w .status) (hpc : w .pc)
    (hreg : w (.reg xw)) : Frame s (t.poll xw prev) w := by
  obtain ⟨-, e⟩ | ⟨k, -, e⟩ := State.poll_cases t xw prev
  · exact e ▸ h.setStatus hstatus
  · exact e ▸ ((h.setV hreg).setStatus hstatus).advance2 hpc

theorem Frame.finish (h : Frame s t w) (hdt : w .dt) (hst : w .st) (henv : w .env) (hno : w .stepNo) :
    Frame s t.finish w := fun c hc => by
  rw [State.finish_eq]
  cases c with
  | dt => exact absurd hdt hc
  | st => exact absurd hst hc
  | env => exact absurd henv hc
  | stepNo => exact absurd hno hc
  | _ => exact h _ hc

/-- The components the engine may write in one step, by the part of the step that writes them. The host's own write
comes before and is no part of it (70_reset_and_hazards.md R267). -/
inductive StepMayWrite (s : State) : Comp → Prop where
  | fetched (h : s.status = .running) : StepMayWrite s .ir
  | unrecognized (h : s.status = .running) (hw : ∀ i, decode s.nextWord ≠ .ok i) : StepMayWrite s .status
  | executed {i : Instr} {c : Comp} (h : s.status = .running) (hw : decode s.nextWord = .ok i)
      (hc : mayWrite s.hostWrite.fetch i c) : StepMayWrite s c
  | polled {xw : Nibble} {prev : Keys} {c : Comp} (h : s.status = .waitingKey xw prev)
      (hc : c = .status ∨ c = .pc ∨ c = .reg xw) : StepMayWrite s c
  | ended {c : Comp} (hc : c = .dt ∨ c = .st ∨ c = .env ∨ c = .stepNo) : StepMayWrite s c

/-- The end of a step stays inside what a step may write. -/
theorem Frame.stepEnd (h : Frame t u (StepMayWrite s)) : Frame t u.finish (StepMayWrite s) :=
  h.finish (.ended (.inl rfl)) (.ended (.inr (.inl rfl))) (.ended (.inr (.inr (.inl rfl))))
    (.ended (.inr (.inr (.inr rfl))))

/-- The frame of a whole step, from the state the host's write leaves: each part of the step keeps it. -/
theorem step_frame (h : step s = .next t) : Frame s.hostWrite t (StepMayWrite s) := by
  have start := Frame.refl s.hostWrite (StepMayWrite s)
  obtain ⟨xw, prev, hs, rfl⟩ | ⟨hs, hd, rfl⟩ | ⟨i, u, hs, hd, he, rfl⟩ := step_cases h
  · exact (start.poll (.polled hs (.inl rfl)) (.polled hs (.inr (.inl rfl)))
      (.polled hs (.inr (.inr rfl)))).stepEnd
  · exact ((start.setIR (.fetched hs)).setStatus (.unrecognized hs hd)).stepEnd
  · have ran : Frame s.hostWrite.fetch u (StepMayWrite s) := (frame_of_exec he).mono fun _ hc => .executed hs hd hc
    exact ((start.setIR (.fetched hs)).trans ran).stepEnd

/-- No instruction writes the latch (10_state.md R34). -/
theorem not_mayWrite_keys : ¬mayWrite s i .keys := by cases i <;> simp [mayWrite]

/-- No instruction writes the parameters (10_state.md R37). -/
theorem not_mayWrite_params : ¬mayWrite s i .params := by cases i <;> simp [mayWrite]

/-- The instructions whose write table holds a pixel (10_state.md R33). -/
theorem mayWrite_pixel {r c : Nat} : mayWrite s i (.pixel r c) ↔ i = .clearScreen ∨ ∃ x y n, i = .drawSprite x y n := by
  cases i <;> simp [mayWrite]

theorem not_stepMayWrite_keys : ¬StepMayWrite s .keys
  | .executed _ _ hc => not_mayWrite_keys hc
  | .polled _ hc => by simp at hc
  | .ended hc => by simp at hc

theorem not_stepMayWrite_params : ¬StepMayWrite s .params
  | .executed _ _ hc => not_mayWrite_params hc
  | .polled _ hc => by simp at hc
  | .ended hc => by simp at hc

/-- A step that may write a pixel runs an instruction that may. -/
theorem StepMayWrite.runs_of_pixel {r c : Nat} :
    StepMayWrite s (.pixel r c) → s.status = .running ∧
      ∃ i, decode s.nextWord = .ok i ∧ (i = .clearScreen ∨ ∃ x y n, i = .drawSprite x y n)
  | .executed h hw hc => ⟨h, _, hw, mayWrite_pixel.mp hc⟩
  | .polled _ hc => by simp at hc
  | .ended hc => by simp at hc

end StepFrame

/-- Settles O16: the latch is outside what the engine writes, so the host's write stands. -/
theorem latchChangesOnlyByHostWrite : Obligations.LatchChangesOnlyByHostWrite := fun _ _ h =>
  step_frame h .keys not_stepMayWrite_keys

/-- Settles O17: the parameters are outside what the engine writes, and the host's write leaves them. -/
theorem stepKeepsParameters : Obligations.StepKeepsParameters := fun _ _ h =>
  step_frame h .params not_stepMayWrite_params

/-- Settles O18: a changed pixel is one the step may write, and only the two display instructions may write one. -/
theorem framebufferChangesOnlyByClearAndDraw : Obligations.FramebufferChangesOnlyByClearAndDraw := by
  intro s t r c h changed
  have written : StepMayWrite s (.pixel r c) := by_contra fun hc => changed (step_frame h (.pixel r c) hc)
  obtain ⟨hs, i, hd, rfl | ⟨x, y, n, rfl⟩⟩ := written.runs_of_pixel
  · exact ⟨hs, .inl hd⟩
  · exact ⟨hs, .inr ⟨x, y, n, hd⟩⟩

/-! ### The machine's invariant: one rule per state operation -/

section Invariant

variable {s t : State}

/-- The constraints on the stack region, in words (00_scope.md R7). -/
theorem stackRegionOk_iff {base limit : Word} :
    stackRegionOk base limit = true ↔
      0x050 ≤ base.toNat ∧ base.toNat + 2 ≤ limit.toNat ∧ limit.toNat ≤ 0x200 := by
  simp [stackRegionOk, and_assoc]

/-- The invariant reads the parameters, PC, SP and memory only. -/
theorem Inv.of_same (h : Inv s) (hparams : t.params = s.params) (hpc : t.pc = s.pc) (hsp : t.sp = s.sp)
    (hmem : t.mem = s.mem) : Inv t := by
  obtain ⟨region, pc, low, high, even, mem⟩ := h
  constructor <;> simpa only [hparams, hpc, hsp, hmem]

/-- Every value written to PC is in range (10_state.md R25). -/
theorem Inv.setPC (h : Inv s) (n : Nat) : Inv (s.setPC n) where
  region := h.region
  pc := by rw [State.setPC_toNat]; exact Nat.mod_lt _ (by decide)
  spLow := h.spLow
  spHigh := h.spHigh
  spEven := h.spEven
  mem := h.mem

theorem Inv.advance2 (h : Inv s) : Inv s.advance2 := h.setPC _

theorem Inv.skipIf (h : Inv s) (cond : Bool) : Inv (s.skipIf cond) := by
  rw [State.skipIf_eq]
  exact h.setPC _

theorem Inv.writeByte (h : Inv s) (a : Nat) (b : Byte) : Inv (s.writeByte a b) where
  region := h.region
  pc := h.pc
  spLow := h.spLow
  spHigh := h.spHigh
  spEven := h.spEven
  mem := State.writeByte_wf h.mem a b

theorem Inv.writeWord (h : Inv s) (a : Nat) (w : Word) : Inv (s.writeWord a w) :=
  (h.writeByte a (hiByte w)).writeByte (a + 1) (loByte w)

theorem Inv.dumpRegs (h : Inv s) (k : Nat) : Inv (s.dumpRegs k) := by
  induction k with
  | zero => exact h
  | succ k ih => exact ih.writeByte _ _

theorem Inv.loadRegs (h : Inv s) (k : Nat) : Inv (s.loadRegs k) := by
  obtain ⟨v, e⟩ := State.loadRegs_eq s k
  exact e ▸ h.of_same rfl rfl rfl rfl

/-- A new SP keeps the invariant if it is in the region at a whole number of entries (10_state.md R27). -/
theorem Inv.setSP (h : Inv s) {w : Word} (low : s.params.stackBase.toNat ≤ w.toNat)
    (high : w.toNat ≤ s.params.stackLimit.toNat) (even : (w.toNat - s.params.stackBase.toNat) % 2 = 0) :
    Inv (s.setSP w) where
  region := h.region
  pc := h.pc
  spLow := low
  spHigh := high
  spEven := even
  mem := h.mem

/-- One entry pushed on a stack with room: the region ends at 0x200, so SP + 2 does not wrap (40_control_flow.md
R133). -/
theorem Inv.push (h : Inv s) (room : s.sp.toNat + 2 ≤ s.params.stackLimit.toNat) : Inv (s.setSP (s.sp + 2)) := by
  obtain ⟨-, -, top⟩ := stackRegionOk_iff.mp h.region
  have low := h.spLow
  have even := h.spEven
  have sp : (s.sp + 2).toNat = s.sp.toNat + 2 := BitVec.toNat_add_of_lt (show s.sp.toNat + 2 < 2 ^ 16 by omega)
  apply h.setSP <;> rw [sp] <;> omega

/-- One entry popped from a stack that holds one (40_control_flow.md R131). -/
theorem Inv.pop (h : Inv s) (entry : s.params.stackBase.toNat + 2 ≤ s.sp.toNat) : Inv (s.setSP (s.sp - 2)) := by
  have high := h.spHigh
  have even := h.spEven
  have sp : (s.sp - 2).toNat = s.sp.toNat - 2 := BitVec.toNat_sub_of_le (show 2 ≤ s.sp.toNat by omega)
  apply h.setSP <;> rw [sp] <;> omega

/-- return keeps the invariant: an empty stack changes the status, any other gives up one entry. -/
theorem Inv.exec_ret (h : Inv s) (ht : exec .ret s = .next t) : Inv t := by
  by_cases empty : s.sp.toNat < s.params.stackBase.toNat + 2
  · cases (exec_ret_of_empty empty).symm.trans ht
    exact h.of_same rfl rfl rfl rfl
  · cases (exec_ret_of_entry empty).symm.trans ht
    exact (h.pop (not_lt.mp empty)).setPC _

/-- call keeps the invariant: a full stack changes the status, any other takes one entry more. -/
theorem Inv.exec_call {nnn : Addr} (h : Inv s) (ht : exec (.call nnn) s = .next t) : Inv t := by
  by_cases full : s.sp.toNat + 2 > s.params.stackLimit.toNat
  · cases (exec_call_of_full full).symm.trans ht
    exact h.of_same rfl rfl rfl rfl
  · cases (exec_call_of_room full).symm.trans ht
    exact ((h.writeWord _ _).push (not_lt.mp full)).setPC _

/-- Every instruction keeps the invariant: PC is written through `setPC` alone, and only call, return and the stores
touch SP or memory. -/
theorem Inv.exec {i : Instr} (h : Inv s) (ht : exec i s = .next t) : Inv t := by
  cases i with
  | ret => exact h.exec_ret ht
  | call nnn => exact h.exec_call ht
  | waitKey =>
    cases ht
    exact h.of_same rfl rfl rfl rfl
  | jump | jumpOffset =>
    cases ht
    exact h.setPC _
  | skipIfEqImm | skipIfNeImm | skipIfEqReg | skipIfNeReg | skipIfKey | skipIfNotKey =>
    cases ht
    exact h.skipIf _
  | storeBcd =>
    cases ht
    exact (((h.writeByte _ _).writeByte _ _).writeByte _ _).advance2
  | registerDump =>
    cases ht
    exact (h.dumpRegs _).advance2
  | registerLoad =>
    cases ht
    exact (h.loadRegs _).advance2
  | legacyCall | clearScreen | drawSprite | moveImm | addImm | moveReg | orReg | andReg | xorReg | randMask |
    readDelay | addReg | subReg | shiftRight | subRegRev | shiftLeft | setIndex | indexAdd | indexSetSprite |
    setDelay | setSound =>
    cases ht
    exact Inv.advance2 (h.of_same rfl rfl rfl rfl)

theorem Inv.hostWrite (h : Inv s) : Inv s.hostWrite := h.of_same rfl rfl rfl rfl

theorem Inv.fetch (h : Inv s) : Inv s.fetch := h.of_same rfl rfl rfl rfl

theorem Inv.raise (h : Inv s) (f : Fault) : Inv (s.raise f) := h.of_same rfl rfl rfl rfl

theorem Inv.poll (h : Inv s) (xw : Nibble) (prev : Keys) : Inv (s.poll xw prev) := by
  obtain ⟨-, e⟩ | ⟨k, -, e⟩ := State.poll_cases s xw prev
  · exact e ▸ h.of_same rfl rfl rfl rfl
  · exact e ▸ Inv.advance2 (h.of_same rfl rfl rfl rfl)

theorem Inv.finish (h : Inv s) : Inv s.finish :=
  h.of_same (State.finish_params s) (State.finish_pc s) (State.finish_sp s) (State.finish_mem s)

/-- A machine with an admissible stack region and an empty ROM meets the invariant (10_state.md R39). -/
theorem Inv.init {p : Params} (region : stackRegionOk p.stackBase p.stackLimit = true) : Inv (State.init p) where
  region := region
  pc := show (0x200 : Nat) < 0x1000 by decide
  spLow := le_refl p.stackBase.toNat
  spHigh := by
    obtain ⟨-, fits, -⟩ := stackRegionOk_iff.mp region
    exact (Nat.le_add_right _ 2).trans fits
  spEven := congrArg (· % 2) (Nat.sub_self p.stackBase.toNat)
  mem := rfl

end Invariant

/-- Settles O19: each part of a step keeps the invariant, whichever of the three a step is. -/
theorem stepKeepsMachineInvariant : Obligations.StepKeepsMachineInvariant := fun s t inv h => by
  have start := inv.hostWrite
  obtain ⟨xw, prev, -, rfl⟩ | ⟨-, -, rfl⟩ | ⟨i, u, -, -, he, rfl⟩ := step_cases h
  · exact (start.poll xw prev).finish
  · exact (start.fetch.raise _).finish
  · exact (start.fetch.exec he).finish

/-- Settles O20: the region of the reset parameters is admissible. -/
theorem resetMeetsMachineInvariant : Obligations.ResetMeetsMachineInvariant := Inv.init (by decide)

/-! ### The flag -/

section Flag

variable {s t : State}

theorem carryFlag_zero_or_one (a b : Byte) : carryFlag a b = 0 ∨ carryFlag a b = 1 := (ite_eq_or_eq _ _ _).symm

theorem notBorrowFlag_zero_or_one (a b : Byte) : notBorrowFlag a b = 0 ∨ notBorrowFlag a b = 1 := ite_eq_or_eq _ _ _

theorem highBitFlag_zero_or_one (a : Byte) : highBitFlag a = 0 ∨ highBitFlag a = 1 := (ite_eq_or_eq _ _ _).symm

theorem collisionFlag_zero_or_one (hit : Bool) : collisionFlag hit = 0 ∨ collisionFlag hit = 1 :=
  (ite_eq_or_eq _ _ _).symm

/-- The bit shifted out is the parity of the value. -/
theorem lowBitFlag_zero_or_one (a : Byte) : lowBitFlag a = 0 ∨ lowBitFlag a = 1 := by
  have parity : (lowBitFlag a).toNat = a.toNat % 2 := (BitVec.toNat_and a 1).trans (Nat.and_one_is_mod _)
  rcases Nat.mod_two_eq_zero_or_one a.toNat with even | odd
  · exact .inl (BitVec.eq_of_toNat_eq (parity.trans even))
  · exact .inr (BitVec.eq_of_toNat_eq (parity.trans odd))

/-- The result does not overwrite the flag unless it goes to VF itself (90_conflicts.md C3). -/
theorem getV_vf_flagThen (s : State) {x : Nibble} (hx : x ≠ vf) (f : Byte) (r : State → Byte) :
    (s.flagThen x f r).getV vf = f := by
  rw [State.getV_flagThen, if_neg hx.symm, if_pos rfl]

/-- The flag-setting operations of family 0x8 write a flag of 0 or 1 and then their result (41_alu.md R156 to R160). -/
theorem exec_flag_operation {x y : Nibble} {i : Instr}
    (hi : i ∈ [Instr.addReg x y, .subReg x y, .subRegRev x y, .shiftRight x y, .shiftLeft x y]) (s : State) :
    ∃ f r, exec i s = .next (s.flagThen x f r).advance2 ∧ (f = 0 ∨ f = 1) := by
  simp only [List.mem_cons, List.not_mem_nil, or_false] at hi
  obtain rfl | rfl | rfl | rfl | rfl := hi
  · exact ⟨_, _, rfl, carryFlag_zero_or_one _ _⟩
  · exact ⟨_, _, rfl, notBorrowFlag_zero_or_one _ _⟩
  · exact ⟨_, _, rfl, notBorrowFlag_zero_or_one _ _⟩
  · exact ⟨_, _, rfl, lowBitFlag_zero_or_one _⟩
  · exact ⟨_, _, rfl, highBitFlag_zero_or_one _⟩

/-- draw-sprite leaves the collision flag in VF (43_display.md R194). -/
theorem getV_vf_of_exec_drawSprite {x y n : Nibble} (h : exec (.drawSprite x y n) s = .next t) :
    ∃ hit, t.getV vf = collisionFlag hit := by
  cases h
  exact ⟨_, State.getV_setV_self _ vf _⟩

end Flag

/-- Settles O25: a draw writes its collision flag last, and the other operations write their result elsewhere. -/
theorem flagIsZeroOrOne : Obligations.FlagIsZeroOrOne := by
  refine ⟨fun x y n s t h => ?_, fun x y i s t hx hi h => ?_⟩
  · obtain ⟨hit, e⟩ := getV_vf_of_exec_drawSprite h
    exact e ▸ collisionFlag_zero_or_one hit
  · obtain ⟨f, r, he, flag⟩ := exec_flag_operation hi s
    cases he.symm.trans h
    have kept : (s.flagThen x f r).advance2.getV vf = f := getV_vf_flagThen s hx f r
    rwa [kept]

/-! ### The reset procedure -/

section Boot

/-- What the reset procedure builds, and from which images (70_reset_and_hazards.md R260 to R262). -/
theorem boot_ok_iff {base limit : Word} {font rom : List Byte} {s : State} :
    State.boot base limit font rom = .ok s ↔
      stackRegionOk base limit = true ∧ rom.length ≤ Config.maxRomBytes ∧ ∃ h : font.length = 80,
        s = (State.init { stackBase := base, stackLimit := limit, font := ⟨font.toArray, h⟩ }).writeBytes
          Config.programOrigin rom := by
  unfold State.boot
  constructor
  · intro h
    split at h
    · rename_i region
      split at h
      · rename_i fontSize
        split at h
        · rename_i romFits
          exact ⟨region, romFits, fontSize, (Except.ok.inj h).symm⟩
        · cases h
      · cases h
    · cases h
  · rintro ⟨region, romFits, fontSize, rfl⟩
    rw [if_pos region, dif_pos fontSize, if_pos romFits]

/-- Writing bytes touches memory only. -/
theorem Machine.State.writeBytes_eq (s : State) (a : Nat) (bs : List Byte) :
    ∃ m, s.writeBytes a bs = { s with mem := m } := by
  induction bs generalizing s a with
  | nil => exact ⟨_, rfl⟩
  | cons b bs ih => exact ih (s.writeByte a b) (a + 1)

/-- A read after bytes are written that do not run past the top of memory: the byte written there, or what was there. -/
theorem Machine.State.readByte_writeBytes (s : State) {a : Nat} {bs : List Byte} (fits : a + bs.length ≤ 0x1000)
    {d : Nat} (hd : d < 0x1000) :
    (s.writeBytes a bs).readByte d = if a ≤ d then bs.getD (d - a) (s.readByte d) else s.readByte d := by
  induction bs generalizing s a with
  | nil => simp [State.writeBytes]
  | cons b bs ih =>
    rw [List.length_cons] at fits
    have first : (s.writeByte a b).readByte d = if d = a then b else s.readByte d := by
      rw [State.readByte_writeByte, Nat.mod_eq_of_lt hd, Nat.mod_eq_of_lt (show a < 0x1000 by omega)]
    have rest := ih (s.writeByte a b) (a := a + 1) (by omega)
    rw [first] at rest
    refine rest.trans ?_
    rcases Nat.lt_trichotomy d a with below | rfl | above
    · rw [if_neg (by omega), if_neg (by omega), if_neg (by omega)]
    · simp
    · rw [if_pos (by omega), if_neg (by omega), if_pos (by omega), show d - a = d - (a + 1) + 1 by omega,
        List.getD_cons_succ]

/-- Memory before the ROM is loaded: FONT, and zero from 0x050 on (10_state.md R39). -/
theorem Machine.State.readByte_init (p : Params) {a : Nat} (ha : a < 0x1000) :
    (State.init p).readByte a = Memory.unlisted p.font a := by
  have inRange : wrapAddr a = a := Nat.mod_eq_of_lt ha
  rw [State.readByte, inRange]
  rfl

/-- Memory after reset: FONT, the ROM from 0x200, and zero elsewhere (10_state.md R39). -/
theorem readByte_init_writeBytes {base limit : Word} {font rom : List Byte} (fontSize : font.length = 80)
    (romFits : rom.length ≤ Config.maxRomBytes) {a : Nat} (ha : a < 0x1000) :
    ((State.init { stackBase := base, stackLimit := limit, font := ⟨font.toArray, fontSize⟩ }).writeBytes
        Config.programOrigin rom).readByte a =
      if a < 0x50 then font.getD a 0x00 else if 0x200 ≤ a then rom.getD (a - 0x200) 0x00 else 0x00 := by
  have top : 0x200 + rom.length ≤ 0x1000 := Nat.add_le_add_left romFits 0x200
  rw [State.readByte_writeBytes _ top ha, State.readByte_init _ ha, Memory.unlisted]
  by_cases inFont : a < 0x50
  · have listed : a < font.length := by omega
    rw [if_neg (show ¬0x200 ≤ a by omega), dif_pos inFont, if_pos inFont]
    simp [listed]
  · rw [dif_neg inFont, if_neg inFont]

end Boot

/-- Settles O22: the ROM is written over the initial state, whose every other component is the reset value. -/
theorem bootGivesResetValues : Obligations.BootGivesResetValues := by
  intro base limit font rom s hboot
  obtain ⟨-, romFits, fontSize, rfl⟩ := boot_ok_iff.mp hboot
  have memory := fun a (ha : a < 0x1000) => readByte_init_writeBytes (base := base) (limit := limit) fontSize romFits ha
  obtain ⟨m, loaded⟩ := State.writeBytes_eq _ Config.programOrigin rom
  rw [loaded] at memory ⊢
  exact ⟨fun x => Vector.getElem_replicate x.isLt, rfl, rfl, rfl, rfl, rfl, rfl, pixelAt_clearFB, rfl, rfl, memory⟩

end Sys2Proof

/-! ### Memory access -/

namespace Sys2Proof

open Sys2Proof.Machine

section MemoryAccess

/-- An address and its successor never reduce to the same byte, so neither write of a word undoes the other. -/
theorem succ_mod_ne_mod (a : Nat) : (a + 1) % 0x1000 ≠ a % 0x1000 := by omega

variable (s : State) {a b : Nat} (w : Word)

/-- The lower address of a written word holds its high byte (20_memory.md R64, R65). -/
theorem Machine.State.readByte_writeWord_high (h : b % 0x1000 = a % 0x1000) :
    (s.writeWord a w).readByte b = hiByte w := by
  have notLow : ¬b % 0x1000 = (a + 1) % 0x1000 := fun e => succ_mod_ne_mod a (e.symm.trans h)
  rw [State.readByte_writeWord, if_neg notLow, if_pos h]

/-- The address after it holds the low byte (20_memory.md R64, R65). -/
theorem Machine.State.readByte_writeWord_low (h : b % 0x1000 = (a + 1) % 0x1000) :
    (s.writeWord a w).readByte b = loByte w := by
  rw [State.readByte_writeWord, if_pos h]

/-- A written word is read back at every address that reduces to its own (20_memory.md R63, R64). -/
theorem Machine.State.readWord_writeWord (h : b % 0x1000 = a % 0x1000) : (s.writeWord a w).readWord b = w := by
  have next : (b + 1) % 0x1000 = (a + 1) % 0x1000 := Nat.ModEq.add_right 1 h
  rw [State.readWord, State.readByte_writeWord_high s w h, State.readByte_writeWord_low s w next, wordOfBytes_bytes]

/-- A word's write leaves every byte outside its two addresses. -/
theorem Machine.State.readByte_writeWord_of_not_stored (h : ¬stored a 2 b) :
    (s.writeWord a w).readByte b = s.readByte b :=
  (Frame.refl s fun c => ∃ d, c = .byte d ∧ stored a 2 d).writeWord (fun d hd => ⟨d, rfl, hd⟩) (.byte b) <| by
    rintro ⟨d, ⟨⟩, hd⟩
    exact h hd

end MemoryAccess

/-- Settles O7: a read reduces its address, each of the two bytes is what was written last at its address, and the frame
of the write keeps the rest. -/
theorem wordAccessIsBigEndian : Obligations.WordAccessIsBigEndian := by
  refine fun s a w => ⟨fun b => s.readByte_mod (Nat.mod_mod b 0x1000).symm, fun b h => ?_, fun b h => ?_,
    fun _ => s.readWord_writeWord w, fun _ => s.readByte_writeWord_of_not_stored w⟩
  · rw [s.readByte_writeWord_high w h, hiByte_toNat]
  · rw [s.readByte_writeWord_low w h, loByte_toNat]

end Sys2Proof

/-! ### Encoding: a word and its fields -/

namespace Sys2Proof

section Fields

variable {w : Word} {f : Nibble}

/-- A word is its family and its address immediate side by side (30_encoding.md R91, R96). -/
theorem formNNN_fields (w : Word) : formNNN (family w) (fieldNNN w) = w :=
  (BitVec.extractLsb'_append_extractLsb'_eq_extractLsb' rfl).trans BitVec.extractLsb'_eq_self

/-- The address immediate is x and the byte immediate side by side (30_encoding.md R92, R95, R96). -/
theorem fieldX_append_fieldNN (w : Word) : fieldX w ++ fieldNN w = fieldNNN w :=
  BitVec.extractLsb'_append_extractLsb'_eq_extractLsb' rfl

/-- The byte immediate is y and n side by side (30_encoding.md R93 to R95). -/
theorem fieldY_append_fieldN (w : Word) : fieldY w ++ fieldN w = fieldNN w :=
  BitVec.extractLsb'_append_extractLsb'_eq_extractLsb' rfl

theorem formXNN_eq_formNNN (f x : Nibble) (nn : Byte) : formXNN f x nn = formNNN f (x ++ nn) := BitVec.append_assoc

theorem formXYN_eq_formXNN (f x y n : Nibble) : formXYN f x y n = formXNN f x (y ++ n) := BitVec.append_assoc

@[simp] theorem fieldNNN_formXNN (f x : Nibble) (nn : Byte) : fieldNNN (formXNN f x nn) = x ++ nn := by
  rw [formXNN_eq_formNNN, fieldNNN_formNNN]

/-- The low byte family 0x0 dispatches on, read off the address immediate (30_encoding.md R101). -/
theorem fieldNNN_lowByte (w : Word) : (fieldNNN w).extractLsb' 0 8 = fieldNN w := by
  rw [← fieldNN_formNNN (family w), formNNN_fields]

theorem formNNN_of_family (hf : family w = f) : formNNN f (fieldNNN w) = w := hf ▸ formNNN_fields w

theorem formXNN_of_fields {nn : Byte} (hf : family w = f) (hnn : fieldNN w = nn) : formXNN f (fieldX w) nn = w := by
  rw [← hnn, formXNN_eq_formNNN, fieldX_append_fieldNN, formNNN_of_family hf]

theorem formXYN_of_fields {n : Nibble} (hf : family w = f) (hn : fieldN w = n) :
    formXYN f (fieldX w) (fieldY w) n = w := by
  rw [← hn, formXYN_eq_formXNN, fieldY_append_fieldN, formXNN_of_fields hf rfl]

theorem formXNN_and (f x g y : Nibble) (a b : Byte) :
    formXNN f x a &&& formXNN g y b = formXNN (f &&& g) (x &&& y) (a &&& b) :=
  BitVec.and_append.trans (congrArg (· ++ (a &&& b)) BitVec.and_append)

/-- Masking bits 11:8 drops the field x alone. -/
theorem formXNN_and_mask (f x : Nibble) (nn : Byte) : formXNN f x nn &&& 0xF0FF = formXNN f 0x0 nn := by
  have mask : (0xF0FF : Word) = formXNN (.allOnes 4) 0#4 (.allOnes 8) := rfl
  rw [mask, formXNN_and, BitVec.and_allOnes, BitVec.and_zero, BitVec.and_allOnes]
  rfl

/-- Masking bits 3:0 drops the field n alone. -/
theorem formXYN_and_mask (f x y n : Nibble) : formXYN f x y n &&& 0xFFF0 = formXYN f x y 0x0 := by
  have mask : (0xFFF0 : Word) = formXNN (.allOnes 4) (.allOnes 4) (BitVec.allOnes 4 ++ 0#4) := rfl
  have low : (y ++ n : Byte) &&& (BitVec.allOnes 4 ++ 0#4) = y ++ 0#4 := by
    rw [BitVec.and_append, BitVec.and_allOnes, BitVec.and_zero]
  rw [formXYN_eq_formXNN, mask, formXNN_and, BitVec.and_allOnes, BitVec.and_allOnes, low, ← formXYN_eq_formXNN]
  rfl

/-- Whatever the ignored bits 3:0 are, the word agrees with the encoding on its used bits (30_encoding.md R98). -/
theorem formXYN_agrees (hf : family w = f) : formXYN f (fieldX w) (fieldY w) 0x0 &&& 0xFFF0 = w &&& 0xFFF0 := by
  rw [formXYN_and_mask, ← formXYN_and_mask f _ _ (fieldN w), formXYN_of_fields hf rfl]

/-- Whatever the ignored bits 11:8 are, the word agrees with the encoding on its used bits (30_encoding.md R98). -/
theorem formXNN_agrees {nn : Byte} (hf : family w = f) (hnn : fieldNN w = nn) :
    formXNN f 0x0 nn &&& 0xF0FF = w &&& 0xF0FF := by
  rw [formXNN_and_mask, ← formXNN_and_mask f (fieldX w), formXNN_of_fields hf hnn]

end Fields

/-! ### Encoding: decoding an encoded instruction -/

/-- Decoding the encoding of a well-formed instruction: the fields of each format are read back, and each sub-selector
picks its own row. -/
theorem decode_encode {i : Instr} (wf : i.wellFormed = true) : decode (encode i) = .ok i := by
  cases i with
  | legacyCall nnn =>
    have low : nnn.extractLsb' 0 8 ≠ 0xE0#8 ∧ nnn.extractLsb' 0 8 ≠ 0xEE#8 := by simpa [Instr.wellFormed] using wf
    simp [encode, decode, decode0, low]
  | clearScreen | ret => rfl
  | moveReg | orReg | andReg | xorReg | addReg | subReg | shiftRight | subRegRev | shiftLeft =>
    simp [encode, decode, decode8]
  | skipIfKey | skipIfNotKey => simp [encode, decode, decodeE]
  | readDelay | waitKey | setDelay | setSound | indexAdd | indexSetSprite | storeBcd | registerDump | registerLoad =>
    simp [encode, decode, decodeF]
  | _ => simp [encode, decode]

/-- Settles O1: the round trip of `decode_encode`, at every instruction. -/
theorem decodeOfEncodeIsIdentity : Obligations.DecodeOfEncodeIsIdentity := fun _ wf => decode_encode wf

/-! ### Encoding: what the decoder gives for each word -/

/-- The word stands for the instruction: it is well-formed, and the word differs from its encoding in ignored bits at
most (30_encoding.md R98, R101). -/
def StandsFor (w : Word) (i : Instr) : Prop := i.wellFormed = true ∧ encode i &&& i.usedBits = w &&& i.usedBits

/-- The three sets of words with no operation (30_encoding.md R106). -/
def Unassigned (w : Word) : Prop :=
  (family w = 0x8#4 ∧ fieldN w ∈ [0x8#4, 0x9#4, 0xA#4, 0xB#4, 0xC#4, 0xD#4, 0xF#4]) ∨
    (family w = 0xE#4 ∧ fieldNN w ∉ [0x9E#8, 0xA1#8]) ∨
    (family w = 0xF#4 ∧ fieldNN w ∉ [0x07#8, 0x0A#8, 0x15#8, 0x18#8, 0x1E#8, 0x29#8, 0x33#8, 0x55#8, 0x65#8])

/-- What the decoder may give for a word: an instruction it stands for, or the sentinel on a word of R106. -/
inductive Decodes (w : Word) : Except Reject Instr → Prop where
  | operation {i : Instr} (assigned : ¬Unassigned w) (stands : StandsFor w i) : Decodes w (.ok i)
  | sentinel (unassigned : Unassigned w) : Decodes w (.error (.unrecognized w))

section DecodeCases

variable {w : Word} {i : Instr}

theorem StandsFor.of_encode_eq (wf : i.wellFormed = true) (h : encode i = w) : StandsFor w i := ⟨wf, by rw [h]⟩

/-- Family 0x0 has no sentinel; its last arm excludes the two low bytes above it (30_encoding.md R101). -/
theorem decodes_decode0 (hf : family w = 0x0#4) : Decodes w (decode0 w) := by
  have assigned : ¬Unassigned w := by simp [Unassigned, hf]
  unfold decode0
  split
  case isTrue hnn => exact .operation assigned ⟨rfl, formXNN_agrees hf hnn⟩
  case isFalse notClear =>
    split
    case isTrue hnn => exact .operation assigned ⟨rfl, formXNN_agrees hf hnn⟩
    case isFalse notRet =>
      have wf : (Instr.legacyCall (fieldNNN w)).wellFormed = true := by
        simp [Instr.wellFormed, fieldNNN_lowByte, notClear, notRet]
      exact .operation assigned (.of_encode_eq wf (formNNN_of_family hf))

/-- Family 0x8: the nine sub-selectors, and a low nibble outside them is in R106 (30_encoding.md R102). -/
theorem decodes_decode8 (hf : family w = 0x8#4) : Decodes w (decode8 w) := by
  unfold decode8
  split
  case h_10 =>
    refine .sentinel (.inl ⟨hf, ?_⟩)
    generalize fieldN w = n at *
    revert n
    decide
  all_goals
    rename_i hn
    exact .operation (by simp [Unassigned, hf, hn]) (.of_encode_eq rfl (formXYN_of_fields hf hn))

/-- Family 0xE: the two sub-selectors, and any other low byte is in R106 (30_encoding.md R103). -/
theorem decodes_decodeE (hf : family w = 0xE#4) : Decodes w (decodeE w) := by
  unfold decodeE
  split
  case h_3 => exact .sentinel (.inr (.inl ⟨hf, by simp_all⟩))
  all_goals
    rename_i hnn
    exact .operation (by simp [Unassigned, hf, hnn]) (.of_encode_eq rfl (formXNN_of_fields hf hnn))

/-- Family 0xF: the nine sub-selectors, and any other low byte is in R106 (30_encoding.md R104). -/
theorem decodes_decodeF (hf : family w = 0xF#4) : Decodes w (decodeF w) := by
  unfold decodeF
  split
  case h_10 => exact .sentinel (.inr (.inr ⟨hf, by simp_all⟩))
  all_goals
    rename_i hnn
    exact .operation (by simp [Unassigned, hf, hnn]) (.of_encode_eq rfl (formXNN_of_fields hf hnn))

/-- What the decoder gives, said once: by family, the four sub-decoders and the single operations in each format. -/
theorem decodes_decode (w : Word) : Decodes w (decode w) := by
  unfold decode
  split
  case h_1 hf => exact decodes_decode0 hf
  case h_9 hf => exact decodes_decode8 hf
  case h_15 hf => exact decodes_decodeE hf
  case h_16 =>
    refine decodes_decodeF ?_
    generalize family w = f at *
    revert f
    decide
  case h_2 hf | h_3 hf | h_11 hf | h_12 hf =>
    exact .operation (by simp [Unassigned, hf]) (.of_encode_eq rfl (formNNN_of_family hf))
  case h_4 hf | h_5 hf | h_7 hf | h_8 hf | h_13 hf =>
    exact .operation (by simp [Unassigned, hf]) (.of_encode_eq rfl (formXNN_of_fields hf rfl))
  case h_6 hf | h_10 hf => exact .operation (by simp [Unassigned, hf]) ⟨rfl, formXYN_agrees hf⟩
  case h_14 hf => exact .operation (by simp [Unassigned, hf]) (.of_encode_eq rfl (formXYN_of_fields hf rfl))

theorem standsFor_of_decode (h : decode w = .ok i) : StandsFor w i := by
  obtain ⟨-, stands⟩ := h ▸ decodes_decode w
  exact stands

theorem decode_of_unassigned (h : Unassigned w) : decode w = .error (.unrecognized w) := by
  have decodes := decodes_decode w
  generalize decode w = r at *
  cases decodes with
  | operation assigned _ => exact absurd h assigned
  | sentinel _ => rfl

theorem exists_decode_of_not_unassigned (h : ¬Unassigned w) : ∃ i, decode w = .ok i := by
  have decodes := decodes_decode w
  generalize decode w = r at *
  cases decodes with
  | operation _ _ => exact ⟨_, rfl⟩
  | sentinel unassigned => exact absurd unassigned h

/-- Exactly the words outside R106 have an operation. -/
theorem exists_decode_iff : (∃ i, decode w = .ok i) ↔ ¬Unassigned w := by
  refine ⟨fun ⟨i, hi⟩ unassigned => ?_, exists_decode_of_not_unassigned⟩
  cases hi.symm.trans (decode_of_unassigned unassigned)

theorem decode_of_no_operation (h : ¬∃ i, decode w = .ok i) : decode w = .error (.unrecognized w) :=
  decode_of_unassigned (not_not.mp fun assigned => h (exists_decode_iff.mpr assigned))

theorem decodeTag_of_ok (h : decode w = .ok i) : decodeTag w = i.tag := by simp only [decodeTag, h]

theorem decodeTag_of_error {e : Reject} (h : decode w = .error e) : decodeTag w = 35 := by simp only [decodeTag, h]

end DecodeCases

/-- Settles O2: the decoder gives an instruction only for a word that stands for it. -/
theorem decodedInstructionDeterminesUsedBits : Obligations.DecodedInstructionDeterminesUsedBits :=
  fun _ _ h => standsFor_of_decode h

/-- Settles O3: the decoder's two outcomes split the words along R106, and the sentinel's tag is 35. -/
theorem unrecognizedWordsAreExactly : Obligations.UnrecognizedWordsAreExactly := fun _ =>
  ⟨exists_decode_iff, fun h => ⟨decode_of_no_operation h, decodeTag_of_error (decode_of_no_operation h)⟩⟩

/-! ### Encoding: tags and families -/

/-- The family of the operation with a tag number: the tags are numbered in the order of the families, three in 0x0,
nine in 0x8, two in 0xE, the last nine in 0xF and one in each other family (30_encoding.md R100 to R105, R107). -/
def tagFamily (k : Nat) : Nibble :=
  if k < 3 then 0x0 else if k < 10 then .ofNat 4 (k - 2) else if k < 19 then 0x8
  else if k < 24 then .ofNat 4 (k - 10) else if k < 26 then 0xE else 0xF

section Tags

variable {w w' : Word} {i : Instr}

theorem tag_lt (i : Instr) : i.tag < 35 := by cases i <;> simp [Instr.tag]

/-- The encoder writes the family of the operation's tag. -/
theorem family_encode (i : Instr) : family (encode i) = tagFamily i.tag := by
  cases i <;> simp [encode, Instr.tag, tagFamily] <;> rfl

/-- The family is among the used bits of every operation (30_encoding.md R98). -/
theorem family_and_usedBits (w : Word) (i : Instr) : family (w &&& i.usedBits) = family w := by
  have used : family i.usedBits = .allOnes 4 := by
    unfold Instr.usedBits
    split <;> rfl
  exact BitVec.extractLsb'_and.trans ((congrArg (family w &&& ·) used).trans BitVec.and_allOnes)

/-- A word that has an operation is in the family of its tag. -/
theorem family_of_decode (h : decode w = .ok i) : family w = tagFamily i.tag := by
  obtain ⟨-, agrees⟩ := standsFor_of_decode h
  rw [← family_encode, ← family_and_usedBits w i, ← agrees, family_and_usedBits]

/-- A tag that is an operation's tells the family of the word. -/
theorem family_of_decodeTag (h : decodeTag w < 35) : family w = tagFamily (decodeTag w) := by
  cases hd : decode w with
  | ok i => rw [decodeTag_of_ok hd, family_of_decode hd]
  | error e => exact absurd h (by simp [decodeTag_of_error hd])

theorem decodeTag_lt_of_single (single : family w ∉ [0x0#4, 0x8#4, 0xE#4, 0xF#4]) : decodeTag w < 35 := by
  have assigned : ¬Unassigned w := by
    rintro (⟨hf, -⟩ | ⟨hf, -⟩ | ⟨hf, -⟩) <;> simp [hf] at single
  obtain ⟨i, hi⟩ := exists_decode_iff.mpr assigned
  exact decodeTag_of_ok hi ▸ tag_lt i

/-- A single-operation family has one tag (30_encoding.md R105). -/
theorem tag_unique_of_single : ∀ k < 35, tagFamily k ∉ [0x0#4, 0x8#4, 0xE#4, 0xF#4] →
    ∀ k' < 35, tagFamily k = tagFamily k' → k = k' := by decide

/-- Two words of one single-operation family decode to the same tag. -/
theorem decodeTag_eq_of_single (same : family w = family w') (single : family w ∉ [0x0#4, 0x8#4, 0xE#4, 0xF#4]) :
    decodeTag w = decodeTag w' := by
  have lt := decodeTag_lt_of_single single
  have lt' : decodeTag w' < 35 := decodeTag_lt_of_single (same ▸ single)
  have hf := family_of_decodeTag lt
  have hf' := family_of_decodeTag lt'
  exact tag_unique_of_single _ lt (hf ▸ single) _ lt' (hf.symm.trans (same.trans hf'))

end Tags

/-- Settles O5: the tag and the family determine each other outside the four families of several operations. -/
theorem singleOperationFamiliesIgnoreLowBits : Obligations.SingleOperationFamiliesIgnoreLowBits := by
  refine ⟨fun w w' same single => ?_, fun w w' single other sameTag => ?_, fun x y n => ⟨?_, ?_⟩⟩
  · exact ⟨decodeTag_eq_of_single same single, (decodeTag_lt_of_single single).ne⟩
  · have lt := decodeTag_lt_of_single single
    have hf' : family w' = tagFamily (decodeTag w) := sameTag ▸ family_of_decodeTag (sameTag ▸ lt)
    exact other (hf'.trans (family_of_decodeTag lt).symm)
  · change decode (formXYN 0x5 x y n) = _
    simp [decode]
  · change decode (formXYN 0x9 x y n) = _
    simp [decode]

/-- Settles O4: the fields of the word are `hi` and `lo`, and `decode0` is the rule itself. -/
theorem familyZeroDecodesOnLowByte : Obligations.FamilyZeroDecodesOnLowByte := by
  intro hi lo
  change decode (formXNN 0x0 hi lo) = _
  simp [decode, decode0]

/-- Settles O6: each word is decoded by evaluation. -/
theorem sampleWordsDecode : Obligations.SampleWordsDecode := by
  unfold Obligations.SampleWordsDecode
  decide

/-! ### The cycle: one step at a running state -/

open Sys2Proof.Machine

section RunningStep

variable {s t : State} {i : Instr} {w : Comp → Prop}

/-- A running step whose word decodes to `i` runs `i` after the host's write and the fetch, then ends (30_encoding.md
R109, R110). -/
theorem step_of_exec (hs : s.status = .running) (hd : decode s.nextWord = .ok i)
    (he : exec i s.hostWrite.fetch = .next t) : step s = .next t.finish := by
  have ran : runInstr s.hostWrite = .next t := (runInstr_of_decode (s := s.hostWrite) hd).trans he
  rw [step_running s hs, ran, finishOutcome]

/-- A running step on an UNRECOGNIZED word raises DecodeFailure (30_encoding.md R112). -/
theorem step_of_unrecognized {e : Reject} (hs : s.status = .running) (hd : decode s.nextWord = .error e) :
    step s = .next (s.hostWrite.fetch.raise (.decodeFailure s.pc s.nextWord)).finish := by
  have ran : runInstr s.hostWrite = .next (s.hostWrite.fetch.raise (.decodeFailure s.pc s.nextWord)) :=
    runInstr_of_unrecognized (s := s.hostWrite) hd
  rw [step_running s hs, ran, finishOutcome]

/-- A halted step does not tick (30_encoding.md R109). -/
theorem Machine.State.finish_raise (s : State) (f : Fault) : (s.raise f).finish = (s.raise f).nextInputs := rfl

theorem Frame.setKeys (h : Frame s t w) {k : Keys} (hw : w .keys) : Frame s (t.setKeys k) w := fun c hc => by
  cases c with
  | keys => exact absurd hw hc
  | _ => exact h _ hc

theorem Frame.nextInputs (h : Frame s t w) (henv : w .env) (hno : w .stepNo) : Frame s t.nextInputs w := fun c hc => by
  cases c with
  | env => exact absurd henv hc
  | stepNo => exact absurd hno hc
  | _ => exact h _ hc

end RunningStep

/-- Settles O8: the step is `exec` on the fetched state and then `finish`, whose ticks `State.finish_eq` writes out. -/
theorem stepRunsDecodedInstruction : Obligations.StepRunsDecodedInstruction := by
  intro s t i hs hd he
  rw [step_of_exec hs hd he, State.finish_eq]
  rfl

/-- Settles O9: the state reached is the fetched one with the fault recorded, whose end of step does not tick, so the
frame is the chain of the five updates. -/
theorem unrecognizedWordHalts : Obligations.UnrecognizedWordHalts := by
  intro s hs hd
  have rejected := decode_of_no_operation fun ⟨i, h⟩ => hd i h
  refine ⟨_, step_of_unrecognized hs rejected, rfl, rfl, rfl, ?_⟩
  rw [State.finish_raise]
  exact ((((Frame.refl s _).setKeys (by simp)).setIR (by simp)).setStatus (by simp)).nextInputs (by simp) (by simp)

end Sys2Proof

/-! ### Control flow -/

namespace Sys2Proof

open Sys2Proof.Machine

/-- What a call on a stack with room leaves: the address `advance2` would set pushed, and PC at the target
(40_control_flow.md R133). -/
def Machine.State.pushAndJump (s : State) (nnn : Addr) : State :=
  ((s.writeWord s.sp.toNat s.advance2.pc).setSP (s.sp + 2)).setPC nnn.toNat

section ControlFlow

variable {s t : State} {w w' : Comp → Prop} {nnn : Addr}

theorem Machine.State.advance2_toNat (s : State) : s.advance2.pc.toNat = (s.pc.toNat + 2) % 0x1000 := s.setPC_toNat _

/-- An address immediate is in the range of PC, so the reduction keeps it (10_state.md R25). -/
theorem Machine.State.setPC_addr_toNat (s : State) (nnn : Addr) : (s.setPC nnn.toNat).pc.toNat = nnn.toNat :=
  (s.setPC_toNat _).trans (Nat.mod_eq_of_lt nnn.isLt)

/-- What every conditional skip does, its test being the Boolean of the condition `p` (30_encoding.md R111). -/
theorem exec_skip {i : Instr} {b : Bool} {p : Prop} [Decidable p] (he : exec i s = .next (s.skipIf b))
    (hb : b = true ↔ p) :
    ∃ t, exec i s = .next t ∧ Advances s t (if p then 4 else 2) ∧ Frame s t fun c => c = .pc := by
  refine ⟨_, he, ?_, (Frame.refl s _).skipIf rfl⟩
  rw [State.skipIf_eq, ← if_congr hb rfl rfl]
  exact s.setPC_toNat _

theorem exec_call_eq_pushAndJump (room : s.sp.toNat + 2 ≤ s.params.stackLimit.toNat) :
    exec (.call nnn) s = .next (s.pushAndJump nnn) := exec_call_of_room (not_lt.mpr room)

/-- A full stack is met before SP can wrap. -/
theorem pushAndJump_sp_toNat (room : s.sp.toNat + 2 ≤ s.params.stackLimit.toNat) :
    (s.pushAndJump nnn).sp.toNat = s.sp.toNat + 2 :=
  BitVec.toNat_add_of_lt (show s.sp.toNat + 2 < 2 ^ 16 by omega)

theorem readByte_pushAndJump_high :
    ((s.pushAndJump nnn).readByte s.sp.toNat).toNat = (s.pc.toNat + 2) % 0x1000 / 256 := by
  have pushed : (s.pushAndJump nnn).readByte s.sp.toNat = hiByte s.advance2.pc := s.readByte_writeWord_high _ rfl
  rw [pushed, hiByte_toNat, State.advance2_toNat]

theorem readByte_pushAndJump_low :
    ((s.pushAndJump nnn).readByte (s.sp.toNat + 1)).toNat = (s.pc.toNat + 2) % 0x1000 % 256 := by
  have pushed : (s.pushAndJump nnn).readByte (s.sp.toNat + 1) = loByte s.advance2.pc := s.readByte_writeWord_low _ rfl
  rw [pushed, loByte_toNat, State.advance2_toNat]

theorem readWord_pushAndJump : (s.pushAndJump nnn).readWord s.sp.toNat = s.advance2.pc := s.readWord_writeWord _ rfl

theorem frame_pushAndJump :
    Frame s (s.pushAndJump nnn) fun c => c = .pc ∨ c = .sp ∨ ∃ a, c = .byte a ∧ stored s.sp.toNat 2 a :=
  (((Frame.refl s _).writeWord fun a ha => .inr (.inr ⟨a, rfl, ha⟩)).setSP (.inr (.inl rfl))).setPC (.inl rfl)

/-- A component that was written but has its old value again can leave the frame's exceptions. -/
theorem Frame.of_restored (h : Frame s t w) (restored : ∀ c, w c → ¬w' c → Comp.same s t c) : Frame s t w' :=
  fun c hc => (em (w c)).elim (fun hw => restored c hw hc) (h c)

end ControlFlow

/-- Settles O26: the entry the call pushed is the word the return pops, so SP is as before and leaves the frame. -/
theorem callThenReturnComesBack : Obligations.CallThenReturnComesBack := by
  intro nnn s low room
  have sp : (s.pushAndJump nnn).sp.toNat = s.sp.toNat + 2 := pushAndJump_sp_toNat room
  have entry : ¬(s.pushAndJump nnn).sp.toNat < (s.pushAndJump nnn).params.stackBase.toNat + 2 := by
    rw [sp]
    exact not_lt.mpr (Nat.add_le_add_right low 2)
  have popped : (s.pushAndJump nnn).readWord ((s.pushAndJump nnn).sp.toNat - 2) = s.advance2.pc := by
    rw [sp, Nat.add_sub_cancel, readWord_pushAndJump]
  have spBack : (s.pushAndJump nnn).sp - 2 = s.sp := BitVec.add_sub_cancel s.sp 2
  refine ⟨_, _, exec_call_eq_pushAndJump room, exec_ret_of_entry entry, ?_, spBack, ?_⟩
  · rw [popped, Advances, State.setPC_toNat, State.advance2_toNat, Nat.mod_mod]
  · refine ((frame_pushAndJump.setSP (.inr (.inl rfl))).setPC (.inl rfl)).of_restored ?_
    rintro c (hpc | rfl | hbyte) hc
    · exact absurd (.inl hpc) hc
    · exact spBack
    · exact absurd (.inr hbyte) hc

/-- Settles O28: the low bytes that the row excludes are the ones the hypotheses exclude. -/
theorem legacyCallOnlyLogsAndAdvances : Obligations.LegacyCallOnlyLogsAndAdvances := by
  refine fun nnn => ⟨fun notClear notRet => decode_encode (i := .legacyCall nnn) ?_, fun s => ?_⟩
  · simp [Instr.wellFormed, notClear, notRet]
  · exact ⟨_, rfl, rfl, s.advance2_toNat, ((Frame.refl s _).emitLog (.inr rfl)).advance2 (.inl rfl)⟩

/-- Settles O29: SP - 2 does not wrap above STACK_BASE, and the popped word is its two bytes, big-endian. -/
theorem returnPopsTheReturnAddress : Obligations.ReturnPopsTheReturnAddress := by
  refine ⟨fun hi => familyZeroDecodesOnLowByte hi 0xEE, fun s entry => ?_⟩
  have second : s.sp.toNat - 2 + 1 = s.sp.toNat - 1 := by omega
  refine ⟨_, exec_ret_of_entry (not_lt.mpr entry), ?_, ?_,
    ((Frame.refl s _).setSP (.inr rfl)).setPC (.inl rfl)⟩
  · exact BitVec.toNat_sub_of_le (show 2 ≤ s.sp.toNat by omega)
  · rw [State.setPC_toNat, State.readWord, wordOfBytes_toNat, second]

/-- Settles O30: the fault is recorded in the status alone. -/
theorem returnOnEmptyStackHalts : Obligations.ReturnOnEmptyStackHalts := fun s empty =>
  ⟨_, exec_ret_of_empty empty, rfl, (Frame.refl s _).setStatus rfl⟩

/-- Settles O31: the target is an address immediate, which the reduction of PC keeps. -/
theorem jumpSetsPC : Obligations.JumpSetsPC := fun nnn =>
  ⟨decode_encode (i := .jump nnn) rfl, fun s => ⟨_, rfl, s.setPC_addr_toNat nnn, (Frame.refl s _).setPC rfl⟩⟩

/-- Settles O32: the rules of `pushAndJump`, which is what call leaves on a stack with room. -/
theorem callPushesAndJumps : Obligations.CallPushesAndJumps := fun nnn =>
  ⟨decode_encode (i := .call nnn) rfl, fun _ room =>
    ⟨_, exec_call_eq_pushAndJump room, State.setPC_addr_toNat _ nnn, pushAndJump_sp_toNat room,
      readByte_pushAndJump_high, readByte_pushAndJump_low, frame_pushAndJump⟩⟩

/-- Settles O33: the fault is recorded in the status alone. -/
theorem callOnFullStackHalts : Obligations.CallOnFullStackHalts := fun _ s full =>
  ⟨_, exec_call_of_full full, rfl, (Frame.refl s _).setStatus rfl⟩

/-- Settles O34: the two tests are the Booleans of `=` and `≠`. -/
theorem immediateSkips : Obligations.ImmediateSkips := fun x nn =>
  ⟨decode_encode (i := .skipIfEqImm x nn) rfl, decode_encode (i := .skipIfNeImm x nn) rfl, fun _ =>
    ⟨exec_skip rfl beq_iff_eq, exec_skip rfl bne_iff_ne⟩⟩

/-- Settles O35: the two tests are the Booleans of `=` and `≠`, and the decoder does not read bits 3:0. -/
theorem registerSkips : Obligations.RegisterSkips := by
  intro x y n
  obtain ⟨-, -, decodes⟩ := singleOperationFamiliesIgnoreLowBits
  obtain ⟨eq, ne⟩ := decodes x y n
  exact ⟨eq, ne, fun _ => ⟨exec_skip rfl beq_iff_eq, exec_skip rfl bne_iff_ne⟩⟩

/-- Settles O36: PC is the offset target, reduced. -/
theorem jumpOffsetAddsV0 : Obligations.JumpOffsetAddsV0 := fun nnn =>
  ⟨decode_encode (i := .jumpOffset nnn) rfl, fun s =>
    ⟨_, rfl, s.setPC_toNat (s.offsetTarget nnn), (Frame.refl s _).setPC rfl⟩⟩

end Sys2Proof

/-! ### Register arithmetic and logic -/

namespace Sys2Proof

open Sys2Proof.Machine

section Alu

variable {s : State} {i : Instr} {x : Nibble} {b f : Byte} {r : State → Byte}

/-- What an instruction does whose one update is a register: it leaves the byte there, moves on, and keeps the rest, VF
included unless it is the destination (41_alu.md R150 to R155, R161). -/
theorem exec_setV (he : exec i s = .next (s.setV x b).advance2) :
    ∃ t, exec i s = .next t ∧ t.getV x = b ∧ Advances s t 2 ∧ Frame s t fun c => c = .pc ∨ c = .reg x :=
  ⟨_, he, s.getV_setV_self x b, State.advance2_toNat _, ((Frame.refl s _).setV (.inr rfl)).advance2 (.inl rfl)⟩

/-- What a flag-setting operation of family 0x8 does: it leaves the flag in VF unless the result goes there, and the result
is computed from the registers with VF already the flag (41_alu.md, WRITE ORDER). -/
theorem exec_flagThen (he : exec i s = .next (s.flagThen x f r).advance2) :
    ∃ t, exec i s = .next t ∧ (x ≠ vf → t.getV vf = f) ∧ t.getV x = r (s.setV vf f) ∧ Advances s t 2 ∧
      Frame s t fun c => c = .pc ∨ c = .reg x ∨ c = .reg vf :=
  ⟨_, he, fun hx => getV_vf_flagThen s hx f r, (s.getV_flagThen x x f r).trans (if_pos rfl), State.advance2_toNat _,
    ((Frame.refl s _).flagThen (.inr (.inl rfl)) (.inr (.inr rfl))).advance2 (.inl rfl)⟩

/-- A difference of bytes as a difference of numbers, with 256 added so that it does not stop at zero. -/
theorem toNat_sub_byte (a b : Byte) : (a - b).toNat = (256 + a.toNat - b.toNat) % 256 := by
  rw [BitVec.toNat_sub]
  omega

theorem lowBitFlag_toNat (a : Byte) : (lowBitFlag a).toNat = a.toNat % 2 :=
  (BitVec.toNat_and a 1).trans (Nat.and_one_is_mod _)

/-- The mask 0x80 of shift-left reads bit 7. -/
theorem highBitFlag_eq (a : Byte) : highBitFlag a = if a.getLsbD 7 then 1 else 0 := by
  have masked : a &&& 0x80 = if a.getLsbD 7 then 0x80 else 0 := BitVec.and_twoPow a 7
  unfold highBitFlag
  rw [masked]
  cases a.getLsbD 7 <;> rfl

end Alu

/-- Settles O41: the carry is the flag, and the sum reads both operands after the flag write. -/
theorem addRegWritesCarryThenSum : Obligations.AddRegWritesCarryThenSum := by
  refine fun x y => ⟨decode_encode (i := .addReg x y) rfl, fun s => ?_⟩
  obtain ⟨t, ht, flag, sum, pc, frame⟩ := exec_flagThen (i := .addReg x y) (s := s) rfl
  refine ⟨t, carryFlag (s.getV x) (s.getV y), ht, rfl, flag, ?_, pc, frame⟩
  rw [sum, BitVec.toNat_add, State.getV_setV, State.getV_setV]

/-- Settles O42: the not-borrow is the flag, and the difference reads both operands after the flag write. -/
theorem subRegWritesNotBorrowThenDifference : Obligations.SubRegWritesNotBorrowThenDifference := by
  refine fun x y => ⟨decode_encode (i := .subReg x y) rfl, fun s => ?_⟩
  obtain ⟨t, ht, flag, difference, pc, frame⟩ := exec_flagThen (i := .subReg x y) (s := s) rfl
  refine ⟨t, notBorrowFlag (s.getV x) (s.getV y), ht, rfl, flag, ?_, pc, frame⟩
  rw [difference, toNat_sub_byte, State.getV_setV, State.getV_setV]

/-- Settles O43: as for sub-reg, the operands of flag and difference exchanged. -/
theorem subRegRevWritesNotBorrowThenDifference : Obligations.SubRegRevWritesNotBorrowThenDifference := by
  refine fun x y => ⟨decode_encode (i := .subRegRev x y) rfl, fun s => ?_⟩
  obtain ⟨t, ht, flag, difference, pc, frame⟩ := exec_flagThen (i := .subRegRev x y) (s := s) rfl
  refine ⟨t, notBorrowFlag (s.getV y) (s.getV x), ht, rfl, flag, ?_, pc, frame⟩
  rw [difference, toNat_sub_byte, State.getV_setV, State.getV_setV]

/-- Settles O44: the flag is the parity of V[x], and the half is a shift of what V[x] holds after the flag write. -/
theorem shiftRightWritesLowBitThenHalf : Obligations.ShiftRightWritesLowBitThenHalf := by
  refine fun x y => ⟨decode_encode (i := .shiftRight x y) rfl, fun s => ?_⟩
  obtain ⟨t, ht, flag, half, pc, frame⟩ := exec_flagThen (i := .shiftRight x y) (s := s) rfl
  refine ⟨t, lowBitFlag (s.getV x), ht, lowBitFlag_toNat _, flag, ?_, pc, frame⟩
  rw [half, BitVec.toNat_ushiftRight, Nat.shiftRight_eq_div_pow, pow_one, State.getV_setV]

/-- Settles O45: the flag is bit 7 of V[x], and the double is a shift of what V[x] holds after the flag write. -/
theorem shiftLeftWritesHighBitThenDouble : Obligations.ShiftLeftWritesHighBitThenDouble := by
  refine fun x y => ⟨decode_encode (i := .shiftLeft x y) rfl, fun s => ?_⟩
  obtain ⟨t, ht, flag, double, pc, frame⟩ := exec_flagThen (i := .shiftLeft x y) (s := s) rfl
  refine ⟨t, highBitFlag (s.getV x), ht, highBitFlag_eq _, flag, ?_, pc, frame⟩
  rw [double, BitVec.toNat_shiftLeft, Nat.shiftLeft_eq, pow_one, State.getV_setV]

/-- Settles O37: `exec_setV` with the immediate. -/
theorem moveImmLoadsImmediate : Obligations.MoveImmLoadsImmediate := fun x nn =>
  ⟨decode_encode (i := .moveImm x nn) rfl, fun _ => exec_setV rfl⟩

/-- Settles O38: `exec_setV` with the sum, which a byte keeps mod 256. -/
theorem addImmWrapsWithoutFlag : Obligations.AddImmWrapsWithoutFlag := by
  refine fun x nn => ⟨decode_encode (i := .addImm x nn) rfl, fun s => ?_⟩
  obtain ⟨t, ht, sum, rest⟩ := exec_setV (i := .addImm x nn) (s := s) rfl
  exact ⟨t, ht, by rw [sum, BitVec.toNat_add], rest⟩

/-- Settles O39: `exec_setV` with the source register. -/
theorem moveRegCopies : Obligations.MoveRegCopies := fun x y =>
  ⟨decode_encode (i := .moveReg x y) rfl, fun _ => exec_setV rfl⟩

/-- Settles O40: `exec_setV` with each bitwise result, whose bits are the library's. -/
theorem bitwiseLogicKeepsFlag : Obligations.BitwiseLogicKeepsFlag := by
  refine fun x y => ⟨decode_encode (i := .orReg x y) rfl, decode_encode (i := .andReg x y) rfl,
    decode_encode (i := .xorReg x y) rfl, fun s => ⟨?_, ?_, ?_⟩⟩
  · obtain ⟨t, ht, value, rest⟩ := exec_setV (i := .orReg x y) (s := s) rfl
    exact ⟨t, ht, fun k => by rw [value, BitVec.getLsbD_or], rest⟩
  · obtain ⟨t, ht, value, rest⟩ := exec_setV (i := .andReg x y) (s := s) rfl
    exact ⟨t, ht, fun k => by rw [value, BitVec.getLsbD_and], rest⟩
  · obtain ⟨t, ht, value, rest⟩ := exec_setV (i := .xorReg x y) (s := s) rfl
    exact ⟨t, ht, fun k => by rw [value, BitVec.getLsbD_xor], rest⟩

/-- Settles O46: `exec_setV` with the masked byte of the environment. -/
theorem randMaskMasksTheInputByte : Obligations.RandMaskMasksTheInputByte := by
  refine fun x nn => ⟨decode_encode (i := .randMask x nn) rfl, fun s => ?_⟩
  obtain ⟨t, ht, masked, rest⟩ := exec_setV (i := .randMask x nn) (s := s) rfl
  exact ⟨t, ht, fun k => by rw [masked, BitVec.getLsbD_and], rest⟩

end Sys2Proof

/-! ### Index register and memory blocks -/

namespace Sys2Proof

open Sys2Proof.Machine

section IndexMemory

variable {s : State} {i : Instr} {w : Word}

/-- A block of bytes leaves every byte outside its addresses. -/
theorem Machine.State.readByte_writeBytes_of_not_stored (s : State) {a d : Nat} {bs : List Byte}
    (h : ¬stored a bs.length d) : (s.writeBytes a bs).readByte d = s.readByte d := by
  induction bs generalizing s a with
  | nil => rfl
  | cons b bs ih =>
    have notFirst : ¬d % 0x1000 = a % 0x1000 := fun e => h ⟨0, Nat.succ_pos _, e⟩
    have notRest : ¬stored (a + 1) bs.length d := fun ⟨k, hk, e⟩ =>
      h ⟨k + 1, Nat.succ_lt_succ hk, by rw [e, Nat.add_right_comm, Nat.add_assoc]⟩
    exact (ih (s.writeByte a b) notRest).trans ((s.readByte_writeByte a d b).trans (if_neg notFirst))

/-- A block of bytes is read back at its addresses, each reduced mod 0x1000, unless it is so long that it meets its own
start again (20_memory.md R62 to R64). -/
theorem Machine.State.readByte_writeBytes_add (s : State) (a : Nat) {bs : List Byte} (fits : bs.length ≤ 0x1000)
    {k : Nat} (hk : k < bs.length) : (s.writeBytes a bs).readByte (a + k) = bs[k] := by
  induction bs generalizing s a k with
  | nil => exact absurd hk (Nat.not_lt_zero k)
  | cons b bs ih =>
    rw [List.length_cons] at fits hk
    cases k with
    | zero =>
      have notRest : ¬stored (a + 1) bs.length a := by
        rintro ⟨k, hk, e⟩
        omega
      exact (State.readByte_writeBytes_of_not_stored _ notRest).trans ((s.readByte_writeByte a a b).trans (if_pos rfl))
    | succ k =>
      have rest := ih (s.writeByte a b) (a + 1) (by omega) (Nat.lt_of_succ_lt_succ hk)
      rwa [Nat.add_right_comm] at rest

/-- The digits of a byte in the order store-bcd writes them (42_index_memory.md R173). -/
def bcdDigits (b : Byte) : List Byte := [hundredsDigit b, tensDigit b, onesDigit b]

theorem exec_storeBcd_eq_writeBytes (x : Nibble) (s : State) :
    exec (.storeBcd x) s = .next (s.writeBytes s.i.toNat (bcdDigits (s.getV x))).advance2 := rfl

theorem hundredsDigit_toNat (b : Byte) : (hundredsDigit b).toNat = b.toNat / 100 := by
  rw [hundredsDigit, BitVec.toNat_ofNat]
  omega

theorem tensDigit_toNat (b : Byte) : (tensDigit b).toNat = b.toNat / 10 % 10 := by
  rw [tensDigit, BitVec.toNat_ofNat]
  omega

theorem onesDigit_toNat (b : Byte) : (onesDigit b).toNat = b.toNat % 10 := by
  rw [onesDigit, BitVec.toNat_ofNat]
  omega

/-- What an instruction does whose one update is I (42_index_memory.md R170 to R172). -/
theorem exec_setI (he : exec i s = .next (s.setI w).advance2) :
    ∃ t, exec i s = .next t ∧ t.i = w ∧ Advances s t 2 ∧ Frame s t fun c => c = .pc ∨ c = .index :=
  ⟨_, he, rfl, State.advance2_toNat _, ((Frame.refl s _).setI (.inr rfl)).advance2 (.inl rfl)⟩

end IndexMemory

/-- Settles O50: the digits are a block of three bytes at I, and the frame is the write table's. -/
theorem storeBcdWritesDecimalDigits : Obligations.StoreBcdWritesDecimalDigits := by
  refine fun x => ⟨decode_encode (i := .storeBcd x) rfl, fun s => ?_⟩
  have digit {k : Nat} (hk : k < 3) :
      (s.writeBytes s.i.toNat (bcdDigits (s.getV x))).advance2.readByte (s.i.toNat + k) = (bcdDigits (s.getV x))[k] :=
    s.readByte_writeBytes_add _ (bs := bcdDigits (s.getV x)) (show 3 ≤ 0x1000 by decide) hk
  have written := exec_storeBcd_eq_writeBytes x s
  refine ⟨_, written, ?_, ?_, ?_, State.advance2_toNat _, frame_of_exec written⟩
  · exact (congrArg BitVec.toNat (digit (k := 0) (by decide))).trans (hundredsDigit_toNat _)
  · exact (congrArg BitVec.toNat (digit (k := 1) (by decide))).trans (tensDigit_toNat _)
  · exact (congrArg BitVec.toNat (digit (k := 2) (by decide))).trans (onesDigit_toNat _)

/-- Settles O51: a dump of at most 16 registers does not meet its own start, and touches memory only. -/
theorem registerDumpStoresRegisters : Obligations.RegisterDumpStoresRegisters := by
  refine fun x => ⟨decode_encode (i := .registerDump x) rfl, fun s => ?_⟩
  have count : x.toNat + 1 ≤ 16 := x.isLt
  refine ⟨_, rfl, fun k hk => s.readByte_dumpRegs_stored count (Nat.lt_succ_of_le hk), ?_,
    frame_of_exec (i := .registerDump x) rfl⟩
  obtain ⟨m, dumped⟩ := s.dumpRegs_eq (x.toNat + 1)
  rw [Advances, State.advance2_toNat, dumped]

/-- Settles O52: a load of at most 16 registers writes each of them once, and touches registers only. -/
theorem registerLoadFillsRegisters : Obligations.RegisterLoadFillsRegisters := by
  refine fun x => ⟨decode_encode (i := .registerLoad x) rfl, fun s => ?_⟩
  have count : x.toNat + 1 ≤ 16 := x.isLt
  refine ⟨_, rfl, fun k hk => (s.getV_loadRegs count k).trans (if_pos (Nat.lt_succ_of_le hk)), ?_,
    frame_of_exec (i := .registerLoad x) rfl⟩
  obtain ⟨v, loaded⟩ := s.loadRegs_eq (x.toNat + 1)
  rw [Advances, State.advance2_toNat, loaded]

/-- Settles O47: `exec_setI` with the address immediate, zero-extended. -/
theorem setIndexLoadsAddress : Obligations.SetIndexLoadsAddress := by
  refine fun nnn => ⟨decode_encode (i := .setIndex nnn) rfl, fun s => ?_⟩
  obtain ⟨t, ht, index, rest⟩ := exec_setI (i := .setIndex nnn) (s := s) rfl
  exact ⟨t, ht, by rw [index, BitVec.toNat_setWidth_of_le (by decide)], rest⟩

/-- Settles O48: `exec_setI` with the sum, which I keeps mod 0x10000. -/
theorem indexAddAddsRegisterValue : Obligations.IndexAddAddsRegisterValue := by
  refine fun x => ⟨decode_encode (i := .indexAdd x) rfl, fun s => ?_⟩
  obtain ⟨t, ht, sum, rest⟩ := exec_setI (i := .indexAdd x) (s := s) rfl
  exact ⟨t, ht, by rw [sum, BitVec.toNat_add, BitVec.toNat_setWidth_of_le (by decide)], rest⟩

/-- Settles O49: `exec_setI` with the product, which is at most 255 * 5 and so does not wrap. -/
theorem indexSetSpritePointsAtGlyph : Obligations.IndexSetSpritePointsAtGlyph := by
  refine fun x => ⟨decode_encode (i := .indexSetSprite x) rfl, fun s => ?_⟩
  obtain ⟨t, ht, glyph, rest⟩ := exec_setI (i := .indexSetSprite x) (s := s) rfl
  have small : (s.getV x).toNat * 5 < 0x10000 := by omega
  refine ⟨t, ht, ?_, rest⟩
  rw [glyph, BitVec.toNat_mul, BitVec.toNat_setWidth_of_le (by decide)]
  exact Nat.mod_eq_of_lt small

end Sys2Proof

/-! ### Display -/

namespace Sys2Proof

open Sys2Proof.Machine

section Display

variable {s t : State} {x y n : Nibble} {r c : Nat}

/-- The pixels under set sprite bits are those the blit's rows cover (43_display.md R191 to R193). -/
theorem spriteCovers_iff_rowsCover :
    spriteCovers s x y n r c ↔
      rowsCover (fun k => s.readByte (s.indexAddr k)) (s.getV y).toNat (s.getV x).toNat n.toNat r c :=
  ⟨fun ⟨k, hk, j, hj, row, column, bit⟩ => ⟨k, hk, row, j, hj, column, bit⟩,
    fun ⟨k, hk, row, j, hj, column, bit⟩ => ⟨k, hk, j, hj, row, column, bit⟩⟩

/-- A sprite is no taller than the screen, so none of its rows wraps onto another. -/
theorem sprite_height_le (n : Nibble) : n.toNat ≤ 32 := by omega

/-- draw-sprite flips a covered pixel (43_display.md R191). -/
theorem pixelAt_drawSprite_of_covers (h : exec (.drawSprite x y n) s = .next t) (covered : spriteCovers s x y n r c) :
    pixelAt t.fb r c = !pixelAt s.fb r c := by
  cases h
  exact (pixelAt_drawRows _ _ _ s.fb (sprite_height_le n) r c).1 (spriteCovers_iff_rowsCover.mp covered)

/-- draw-sprite keeps every other pixel (43_display.md R191). -/
theorem pixelAt_drawSprite_of_not_covers (h : exec (.drawSprite x y n) s = .next t)
    (uncovered : ¬spriteCovers s x y n r c) : pixelAt t.fb r c = pixelAt s.fb r c := by
  cases h
  exact (pixelAt_drawRows _ _ _ s.fb (sprite_height_le n) r c).2 (mt spriteCovers_iff_rowsCover.mpr uncovered)

/-- A covered pixel is set: what draw-sprite reports as a collision (43_display.md R194). -/
def SpriteCollides (s : State) (x y n : Nibble) : Prop := ∃ r c, spriteCovers s x y n r c ∧ pixelAt s.fb r c = true

/-- The blit records a hit exactly if the sprite collides (43_display.md R194). -/
theorem hit_iff_spriteCollides :
    (drawRows (fun k => s.readByte (s.indexAddr k)) (s.getV y).toNat (s.getV x).toNat s.fb n.toNat).2 = true ↔
      SpriteCollides s x y n := by
  simp only [SpriteCollides, spriteCovers_iff_rowsCover]
  exact hit_drawRows _ _ _ s.fb (sprite_height_le n)

/-- A collision leaves 1 in VF, whatever VF held and whichever coordinate it was (43_display.md R194). -/
theorem getV_vf_drawSprite_of_collides (h : exec (.drawSprite x y n) s = .next t) (hit : SpriteCollides s x y n) :
    t.getV vf = 1 := by
  cases h
  exact (State.getV_setV_self _ vf _).trans (if_pos (hit_iff_spriteCollides.mpr hit))

/-- No collision leaves 0 in VF (43_display.md R194). -/
theorem getV_vf_drawSprite_of_not_collides (h : exec (.drawSprite x y n) s = .next t)
    (miss : ¬SpriteCollides s x y n) : t.getV vf = 0 := by
  cases h
  exact (State.getV_setV_self _ vf _).trans (if_neg (mt hit_iff_spriteCollides.mp miss))

/-- A draw that keeps its coordinates covers the same pixels when it is repeated: I and memory are in its frame. -/
theorem spriteCovers_after_drawSprite (h : exec (.drawSprite x y n) s = .next t) (hx : t.getV x = s.getV x)
    (hy : t.getV y = s.getV y) : spriteCovers t x y n r c ↔ spriteCovers s x y n r c := by
  have frame := frame_of_exec h
  have index : t.i = s.i := frame .index (by simp [mayWrite])
  have memory (a : Nat) : t.readByte a = s.readByte a := frame (.byte a) (by simp [mayWrite])
  simp only [spriteCovers, hx, hy, index, memory]

/-- The repeated draw collides exactly if the first turned some pixel on: on covered pixels the first draw negates. -/
theorem spriteCollides_after_drawSprite (h : exec (.drawSprite x y n) s = .next t) (hx : t.getV x = s.getV x)
    (hy : t.getV y = s.getV y) :
    SpriteCollides t x y n ↔ ∃ r c, spriteCovers s x y n r c ∧ pixelAt s.fb r c = false := by
  have negated {r c : Nat} (covered : spriteCovers s x y n r c) :
      pixelAt t.fb r c = true ↔ pixelAt s.fb r c = false := by
    rw [pixelAt_drawSprite_of_covers h covered, Bool.not_eq_true']
  simp only [SpriteCollides, spriteCovers_after_drawSprite h hx hy]
  exact exists₂_congr fun _ _ => and_congr_right negated

end Display

/-- Settles O54: what the blit does to covered and uncovered pixels, its hit record, and the write table's frame. -/
theorem drawSpriteXorsAndReportsCollision : Obligations.DrawSpriteXorsAndReportsCollision := fun x y n =>
  ⟨decode_encode (i := .drawSprite x y n) rfl, fun s => by
    obtain ⟨t, h, frame⟩ := exec_frame (.drawSprite x y n) s
    have pc : Advances s t 2 := by
      cases h
      exact State.advance2_toNat _
    exact ⟨t, h, fun _ _ => pixelAt_drawSprite_of_covers h, fun _ _ => pixelAt_drawSprite_of_not_covers h,
      getV_vf_drawSprite_of_collides h, getV_vf_drawSprite_of_not_collides h, pc, frame⟩⟩

/-- Settles O27: the second draw covers the same pixels, so it undoes each flip of the first and collides where the first
turned a pixel on. -/
theorem drawTwiceRestoresFramebuffer : Obligations.DrawTwiceRestoresFramebuffer := by
  intro x y n s t u first hx hy second
  have same {r c : Nat} := spriteCovers_after_drawSprite (r := r) (c := c) first hx hy
  have collides := spriteCollides_after_drawSprite first hx hy
  refine ⟨fun r c => ?_, fun turnedOn => getV_vf_drawSprite_of_collides second (collides.mpr turnedOn),
    fun allSet => getV_vf_drawSprite_of_not_collides second (mt collides.mp allSet)⟩
  by_cases covered : spriteCovers s x y n r c
  · rw [pixelAt_drawSprite_of_covers second (same.mpr covered), pixelAt_drawSprite_of_covers first covered, Bool.not_not]
  · rw [pixelAt_drawSprite_of_not_covers second (mt same.mp covered), pixelAt_drawSprite_of_not_covers first covered]

/-- Settles O53: the new framebuffer is the clear one, and the frame is the write table's. -/
theorem clearScreenClearsEveryPixel : Obligations.ClearScreenClearsEveryPixel :=
  ⟨fun hi => familyZeroDecodesOnLowByte hi 0xE0, fun _ =>
    ⟨_, rfl, pixelAt_clearFB, State.advance2_toNat _, frame_of_exec (i := .clearScreen) rfl⟩⟩

end Sys2Proof

/-! ### Input and timers -/

namespace Sys2Proof

open Sys2Proof.Machine

/-- What a poll that takes the key `k` leaves: the key in the destination, and the engine running behind the wait-key
(44_input_timers.md R214). -/
def Machine.State.completeWait (s : State) (xw k : Nibble) : State :=
  ((s.setV xw (k.setWidth 8)).setStatus .running).advance2

section InputTimers

variable {s t u : State} {i : Instr} {xw k : Nibble} {prev now : Keys} {pick : Nat}

/-- A key the environment chooses is one that was newly pressed (44_input_timers.md R214). -/
theorem newlyPressed_of_chosenKey (h : chosenKey pick prev now = some k) : newlyPressed prev now k :=
  (mem_newKeys prev now k).mp (chosenKey_mem h)

/-- No key is chosen exactly if none is newly pressed (44_input_timers.md R214). -/
theorem chosenKey_eq_none_iff : chosenKey pick prev now = none ↔ ∀ k, ¬newlyPressed prev now k := by
  rw [chosenKey_none, List.eq_nil_iff_forall_not_mem]
  exact forall_congr' fun k => not_congr (mem_newKeys prev now k)

/-- A poll that chooses no key keeps waiting with a new sample (44_input_timers.md R214). -/
theorem step_of_no_choice (hs : s.status = .waitingKey xw prev)
    (noKey : chosenKey s.env.keyPick prev s.latched = none) :
    step s = .next (s.hostWrite.setStatus (.waitingKey xw s.latched)).finish := by
  obtain ⟨-, polled⟩ | ⟨k, chosen, -⟩ := s.hostWrite.poll_cases xw prev
  · rw [step_waiting s hs, polled]
    rfl
  · cases noKey.symm.trans chosen

/-- A poll that chooses a key completes the wait with it (44_input_timers.md R214). -/
theorem step_of_choice (hs : s.status = .waitingKey xw prev)
    (chosen : chosenKey s.env.keyPick prev s.latched = some k) :
    step s = .next (s.hostWrite.completeWait xw k).finish := by
  obtain ⟨noKey, -⟩ | ⟨k', chosen', polled⟩ := s.hostWrite.poll_cases xw prev
  · cases noKey.symm.trans chosen
  · obtain rfl : k = k' := Option.some.inj (chosen.symm.trans chosen')
    rw [step_waiting s hs, polled, State.completeWait]

/-- The end of a step leaves the registers. -/
theorem Machine.State.getV_finish (s : State) (x : Nibble) : s.finish.getV x = s.getV x :=
  State.getV_eq_of_v s.finish_v x

/-- The destination of a completed wait holds the key's number. -/
theorem getV_completeWait_toNat (s : State) (xw k : Nibble) :
    ((s.completeWait xw k).finish.getV xw).toNat = k.toNat := by
  have written : (s.completeWait xw k).getV xw = k.setWidth 8 := s.getV_setV_self xw (k.setWidth 8)
  rw [State.getV_finish, written, BitVec.toNat_setWidth_of_le (by decide)]

/-- The tick at the end of a step that does not fault (60_exceptions.md R238, R239). -/
theorem finish_timers (free : s.faultFree = true) :
    (s.finish.dt.toNat = s.dt.toNat - if s.env.tick then 1 else 0) ∧
      s.finish.st.toNat = s.st.toNat - if s.env.tick then 1 else 0 := by
  have notHalted : (!s.status.isHalted) = true := free
  rw [State.finish_eq]
  cases s.env.tick <;> simp [notHalted, countDown_toNat]

/-- The tick of a step whose instruction leaves the engine running finds the timers as the instruction left them
(30_encoding.md R109, 60_exceptions.md R238). -/
theorem timers_of_step (hs : s.status = .running) (hd : decode s.nextWord = .ok i)
    (he : exec i s.hostWrite.fetch = .next t) (ht : t.status = .running) (h : step s = .next u) :
    (u.dt.toNat = t.dt.toNat - if t.env.tick then 1 else 0) ∧
      u.st.toNat = t.st.toNat - if t.env.tick then 1 else 0 := by
  cases (step_of_exec hs hd he).symm.trans h
  exact finish_timers (by rw [State.faultFree, ht]; rfl)

end InputTimers

/-- Settles O14: some key is chosen because one is new, a chosen key is new, and each new key is chosen for some `pick`,
which changes nothing else of the poll. -/
theorem pollWithNewKeyCompletes : Obligations.PollWithNewKeyCompletes := by
  intro s xw prev k hs new
  constructor
  · obtain ⟨k', chosen⟩ : ∃ k', chosenKey s.env.keyPick prev s.latched = some k' :=
      Option.ne_none_iff_exists'.mp fun noKey => chosenKey_eq_none_iff.mp noKey k new
    refine ⟨_, k', step_of_choice hs chosen, newlyPressed_of_chosenKey chosen, getV_completeWait_toNat _ xw k',
      State.finish_status _, ?_, State.finish_keys _, ?_⟩
    · rw [Advances, State.finish_pc]
      exact State.advance2_toNat _
    · exact (((((Frame.refl s _).setKeys (by simp)).setV (by simp)).setStatus (by simp)).advance2 (by simp)).finish
        (by simp) (by simp) (by simp) (by simp)
  · obtain ⟨pick, chosen⟩ := chosenKey_surjective ((mem_newKeys prev s.latched k).mpr new)
    exact ⟨pick, _, step_of_choice (s := { s with env := { s.env with keyPick := pick } }) hs chosen,
      getV_completeWait_toNat _ xw k⟩

/-- Settles O58: exec's frame is the write table's, and the tick of the whole step finds the register's value in the
timer. -/
theorem setTimersLoadTheRegister : Obligations.SetTimersLoadTheRegister := fun x =>
  ⟨decode_encode (i := .setDelay x) rfl, decode_encode (i := .setSound x) rfl, fun _ =>
    ⟨⟨_, rfl, rfl, State.advance2_toNat _, frame_of_exec (i := .setDelay x) rfl⟩,
      ⟨_, rfl, rfl, State.advance2_toNat _, frame_of_exec (i := .setSound x) rfl⟩⟩, fun _ _ hs h =>
    ⟨fun hd => (timers_of_step hs hd rfl hs h).1, fun hd => (timers_of_step hs hd rfl hs h).2⟩⟩

/-- Settles O13: the poll chooses no key, so the chain of its updates is the frame. -/
theorem pollWithoutNewKeyKeepsWaiting : Obligations.PollWithoutNewKeyKeepsWaiting := by
  intro s xw prev hs noNew
  refine ⟨_, step_of_no_choice hs (chosenKey_eq_none_iff.mpr noNew), State.finish_status _, State.finish_keys _, ?_⟩
  exact (((Frame.refl s _).setKeys (by simp)).setStatus (by simp)).finish (by simp) (by simp) (by simp) (by simp)

/-- Settles O55: the test is the latch bit itself, or its negation. -/
theorem keySkipsReadTheLatch : Obligations.KeySkipsReadTheLatch := fun x =>
  ⟨decode_encode (i := .skipIfKey x) rfl, decode_encode (i := .skipIfNotKey x) rfl, fun s => by
    refine ⟨exec_skip rfl Iff.rfl, ?_⟩
    have skips := exec_skip (i := .skipIfNotKey x) (s := s) (p := ¬s.keyAt x = true) rfl (by simp)
    rwa [ite_not] at skips⟩

/-- Settles O56: the one update is the status. -/
theorem waitKeySamplesAndBlocks : Obligations.WaitKeySamplesAndBlocks := fun x =>
  ⟨decode_encode (i := .waitKey x) rfl, fun _ => ⟨_, rfl, rfl, frame_of_exec (i := .waitKey x) rfl⟩⟩

/-- Settles O57: `exec_setV` with DT, and the end of the step, which ticks, leaves the registers. -/
theorem readDelayCopiesTimer : Obligations.ReadDelayCopiesTimer := by
  refine fun x => ⟨decode_encode (i := .readDelay x) rfl, fun s => exec_setV (b := s.dt) rfl, fun s u hs h hd => ?_⟩
  have ran : exec (.readDelay x) s.hostWrite.fetch = .next (s.hostWrite.fetch.setV x s.dt).advance2 := rfl
  cases (step_of_exec hs hd ran).symm.trans h
  rw [State.getV_finish]
  exact State.getV_setV_self _ x s.dt

end Sys2Proof

/-! ### Exceptions -/

namespace Sys2Proof

open Sys2Proof.Machine

/-- Why a step from `s` halts the engine with the fault `f`: the causes of 60_exceptions.md R231, one per code. -/
inductive FaultCause (s : State) : Fault → Prop where
  | decodeFailure (noOperation : ∀ i, decode s.nextWord ≠ .ok i) : FaultCause s (.decodeFailure s.pc s.nextWord)
  | stackOverflow (isCall : ∃ nnn, decode s.nextWord = .ok (.call nnn))
      (full : s.sp.toNat + 2 > s.params.stackLimit.toNat) : FaultCause s (.stackOverflow s.pc s.nextWord)
  | stackUnderflow (isRet : decode s.nextWord = .ok .ret)
      (empty : s.sp.toNat < s.params.stackBase.toNat + 2) : FaultCause s (.stackUnderflow s.pc s.nextWord)

section Exceptions

variable {s t u : State} {i : Instr} {f : Fault}

theorem faultFree_of_running (hs : s.status = .running) : s.faultFree = true := by
  rw [State.faultFree, hs, Status.isHalted, Bool.not_false]

/-- The states that are not fault-free are the halted ones. -/
theorem faultFree_eq_false_iff : s.faultFree = false ↔ ∃ f, s.status = .halted f := by
  cases hs : s.status <;> simp [State.faultFree, Status.isHalted, hs]

/-- A poll never halts the engine (44_input_timers.md R214). -/
theorem poll_status_ne_halted (s : State) (xw : Nibble) (prev : Keys) : (s.poll xw prev).status ≠ .halted f := by
  obtain ⟨-, polled⟩ | ⟨k, -, polled⟩ := s.poll_cases xw prev <;> rw [polled] <;> exact nofun

/-- The fault of an instruction has its cause in the state the step began from, and its raise is all the instruction
does. -/
theorem exec_of_halted (hs : s.status = .running) (hd : decode s.nextWord = .ok i)
    (he : exec i s.hostWrite.fetch = .next u) (hu : u.status = .halted f) :
    FaultCause s f ∧ u = s.hostWrite.fetch.raise f := by
  have free : s.hostWrite.fetch.faultFree = true := faultFree_of_running hs
  obtain ⟨⟨nnn, rfl⟩, full⟩ | ⟨rfl, empty⟩ := exec_halts_only_on_stack_fault he free (faultFree_eq_false_iff.mpr ⟨f, hu⟩)
  · cases (exec_call_of_full full).symm.trans he
    cases hu
    exact ⟨.stackOverflow ⟨nnn, hd⟩ full, rfl⟩
  · cases (exec_ret_of_empty empty).symm.trans he
    cases hu
    exact ⟨.stackUnderflow hd empty, rfl⟩

/-- A step that ends halted had a cause for its fault, and did nothing but fetch and raise (60_exceptions.md R231, R233). -/
theorem step_of_halts (h : step s = .next t) (ht : t.status = .halted f) :
    FaultCause s f ∧ t = (s.hostWrite.fetch.raise f).nextInputs := by
  obtain ⟨xw, prev, -, rfl⟩ | ⟨-, noOperation, rfl⟩ | ⟨i, u, hs, hd, he, rfl⟩ := step_cases h <;>
    rw [State.finish_status] at ht
  · exact absurd ht (poll_status_ne_halted _ xw prev)
  · cases ht
    exact ⟨.decodeFailure noOperation, rfl⟩
  · obtain ⟨cause, rfl⟩ := exec_of_halted hs hd he ht
    exact ⟨cause, rfl⟩

/-- The fault records the PC of the faulting instruction (60_exceptions.md R233). -/
theorem FaultCause.fpc_eq (cause : FaultCause s f) : f.fpc = s.pc := by cases cause <;> rfl

/-- The fault records the word of the faulting instruction (60_exceptions.md R233). -/
theorem FaultCause.fword_eq (cause : FaultCause s f) : f.fword = s.nextWord := by cases cause <;> rfl

/-- No instruction writes the environment's inputs. -/
theorem not_mayWrite_env : ¬mayWrite s i .env := by cases i <;> simp [mayWrite]

/-- set-delay alone writes DT (60_exceptions.md R239). -/
theorem mayWrite_dt : mayWrite s i .dt ↔ ∃ x, i = .setDelay x := by cases i <;> simp [mayWrite]

/-- set-sound alone writes ST (60_exceptions.md R239). -/
theorem mayWrite_st : mayWrite s i .st ↔ ∃ x, i = .setSound x := by cases i <;> simp [mayWrite]

/-- The state a step leaves to its end holds the inputs the step began with, and each timer unless its one writer ran
(60_exceptions.md R238). -/
theorem step_before_end (h : step s = .next t) :
    ∃ u : State, t = u.finish ∧ u.env = s.env ∧
      (u.dt = s.dt ∨ ∃ x, s.status = .running ∧ decode s.nextWord = .ok (.setDelay x)) ∧
      (u.st = s.st ∨ ∃ x, s.status = .running ∧ decode s.nextWord = .ok (.setSound x)) := by
  obtain ⟨xw, prev, -, rfl⟩ | ⟨-, -, rfl⟩ | ⟨i, u, hs, hd, he, rfl⟩ := step_cases h
  · have frame : Frame s.hostWrite (s.hostWrite.poll xw prev) (fun c => c = .status ∨ c = .pc ∨ c = .reg xw) :=
      (Frame.refl _ _).poll (by simp) (by simp) (by simp)
    exact ⟨_, rfl, frame .env (by simp), .inl (frame .dt (by simp)), .inl (frame .st (by simp))⟩
  · exact ⟨_, rfl, rfl, .inl rfl, .inl rfl⟩
  · have frame := frame_of_exec he
    refine ⟨u, rfl, frame .env not_mayWrite_env, ?_, ?_⟩
    · refine or_iff_not_imp_right.mpr fun other => frame .dt fun written => other ?_
      obtain ⟨x, rfl⟩ := mayWrite_dt.mp written
      exact ⟨x, hs, hd⟩
    · refine or_iff_not_imp_right.mpr fun other => frame .st fun written => other ?_
      obtain ⟨x, rfl⟩ := mayWrite_st.mp written
      exact ⟨x, hs, hd⟩

/-- A run of one or more steps from a halted state answers its fault (60_exceptions.md R232). -/
theorem run_of_halted (hs : s.status = .halted f) (k : Nat) : Host.Core.run Sys2Proof.core (k + 1) s = .fault f := by
  have stopped : Sys2Proof.core.step s = .fault f := step_halted s hs
  simp only [Host.Core.run, stopped]

end Exceptions

/-- Settles O11: the step only fetches, raises and takes its next inputs, so the frame is the chain of these updates, and
the cause names what the fault records. -/
theorem faultingStepIsPrecise : Obligations.FaultingStepIsPrecise := by
  intro s t f h ht
  obtain ⟨cause, rfl⟩ := step_of_halts h ht
  refine ⟨cause.fpc_eq, cause.fword_eq, rfl, ?_⟩
  exact ((((Frame.refl s _).setKeys (by simp)).setIR (by simp)).setStatus (by simp)).nextInputs (by simp) (by simp)

/-- Settles O12: one case per cause. -/
theorem faultsHaveTheirCauses : Obligations.FaultsHaveTheirCauses := by
  intro s t f h ht
  cases (step_of_halts h ht).1 with
  | decodeFailure noOperation => exact .inl ⟨rfl, rfl, noOperation⟩
  | stackOverflow isCall full => exact .inr (.inl ⟨rfl, rfl, isCall, full⟩)
  | stackUnderflow isRet empty => exact .inr (.inr ⟨rfl, rfl, isRet, empty⟩)

/-- Settles O15: a step that faults skips the tick; after any other, the tick finds each timer as the step's one writer of
it left it, or as it was. -/
theorem timersTickOncePerStep : Obligations.TimersTickOncePerStep := by
  intro s u h
  refine ⟨fun faulted => ?_, fun free => ?_⟩
  · obtain ⟨f, hu⟩ := faultFree_eq_false_iff.mp faulted
    obtain ⟨-, rfl⟩ := step_of_halts h hu
    exact ⟨rfl, rfl⟩
  · obtain ⟨t, rfl, env, dt, st⟩ := step_before_end h
    have ticked := finish_timers ((State.faultFree_of_status t.finish_status).symm.trans free)
    rw [env] at ticked
    refine ⟨fun x hs hd => (timers_of_step hs hd rfl hs h).1, fun other => ?_,
      fun x hs hd => (timers_of_step hs hd rfl hs h).2, fun other => ?_⟩
    · exact dt.resolve_right other ▸ ticked.1
    · exact st.resolve_right other ▸ ticked.2

/-- Settles O10: a halted state has no step, and a run stops at the fault of its first. -/
theorem haltedStateIsFinal : Obligations.HaltedStateIsFinal := fun s _ hs => ⟨step_halted s hs, run_of_halted hs⟩

end Sys2Proof

/-! ### The machines the reset procedure builds -/

namespace Sys2Proof

open Sys2Proof.Machine

/-- Loading bytes keeps the invariant: the load is a run of byte writes (20_memory.md R64). -/
theorem Inv.writeBytes {s : State} (h : Inv s) (a : Nat) (bs : List Byte) : Inv (s.writeBytes a bs) := by
  induction bs generalizing s a with
  | nil => exact h
  | cons b bs ih => exact ih (h.writeByte a b) (a + 1)

/-- Settles O21: the initial state for the admissible region meets the invariant, and loading the ROM keeps it. -/
theorem bootMeetsMachineInvariant : Obligations.BootMeetsMachineInvariant := by
  intro base limit font rom s hboot
  obtain ⟨region, -, _, rfl⟩ := boot_ok_iff.mp hboot
  exact (Inv.init region).writeBytes Config.programOrigin rom

/-- Settles O23: the three checks of the reset procedure are the bounds of the statement. -/
theorem bootSucceedsExactlyOnGoodImages : Obligations.BootSucceedsExactlyOnGoodImages := by
  intro base limit font rom
  constructor
  · rintro ⟨s, hboot⟩
    obtain ⟨region, romFits, fontSize, -⟩ := boot_ok_iff.mp hboot
    obtain ⟨low, room, high⟩ := stackRegionOk_iff.mp region
    exact ⟨low, room, high, fontSize, romFits⟩
  · rintro ⟨low, room, high, fontSize, romFits⟩
    exact ⟨_, boot_ok_iff.mpr ⟨stackRegionOk_iff.mpr ⟨low, room, high⟩, romFits, fontSize, rfl⟩⟩

end Sys2Proof
